-- ==== Sys2Proof/Word.lean ====
section
/-! DEFINITION. The word types of the z_pid core (00_scope.md rules R9 and R10). A value the spec treats as
bits is a bit vector; integers and binary32 numbers live in 32-bit vectors and are read by the functions of
Machine/Operands.lean and Machine/Binary32.lean. -/

namespace Sys2Proof

/-- A byte of a buffer or of the wire (rule R9). -/
abbrev Byte := BitVec 8

/-- A 16-bit slot of the telemetry frame, or the raw bits of a 16-bit field (rules R74 and R82). -/
abbrev Slot := BitVec 16

/-- An `i32` register: two's complement, 32 bits (rule R10). -/
abbrev I32 := BitVec 32

/-- An `f32` register: the bit pattern of an IEEE 754 binary32 value (rules R10 and R155). -/
abbrev F32 := BitVec 32

end Sys2Proof
end

