-- ==== Sys2Proof/Config.lean ====
section
/-! DEFINITION. What an implementation fixes (00_scope.md rule R8) and the free values the spec leaves open.
The three free values are opaque: no proof can see what they are, so a claim holds whatever they are. -/

namespace Sys2Proof

/-- The five gain-and-limit values of one PID instance (10_state.md rule R26). -/
structure Gains where
  kp : F32
  ki : F32
  kd : F32
  ioutMax : F32
  outMax : F32
  deriving DecidableEq, Repr

/-- Between which points a gain-set replacement may land (20_memory.md rule R57). -/
inductive CommitGranularity where
  | operation
  | pidTick
  deriving DecidableEq, Repr

/-- `L`, the fixed kinematic constant of the mixing matrix (rule R8; DESIGN CHOICE of rule R8's last column, log entry 19). -/
def Config.kinematicL : Nat := 1

/-- `RXCAP`, the capacity of the receive buffer in bytes (rule R8, decision D6, log entry 19). -/
def Config.rxCap : Nat := 55

/-- `TLMLEN`, the length of the telemetry frame and so of the transmit buffer (rules R8 and R50). -/
def Config.tlmLen : Nat := 32

/-- `NGAIN`, the number of fields a command frame must carry (rule R8). -/
def Config.nGain : Nat := 10

/-- `CHECK_TRAILER` (rule R8, decision D3, log entry 19). -/
def Config.checkTrailer : Bool := true

/-- `COMMIT_GRANULARITY` of this hardware (rules R8 and R56, decision D2, log entry 18). -/
def Config.commitGranularity : CommitGranularity := .operation

/-- `DEFAULT_GAINS` (rules R8 and R241, decision D8, log entry 19): 1.0, 1.0, 1.0, 500.0, 2000.0. -/
def Config.defaultGains : Gains where
  kp := 0x3F800000
  ki := 0x3F800000
  kd := 0x3F800000
  ioutMax := 0x43FA0000
  outMax := 0x44FA0000

/-- What a buffer byte that nothing has written reads as. DESIGN CHOICE, unsafe: log entry 13. -/
def Config.unwrittenByte : Byte := 0

/-- `F2I_OOR` (rules R8 and R181, U3): the result of the conversion to `i32` for NaN and for values outside the
`i32` range. Free: any function of the operand. Log entry 10. -/
opaque Config.f2iOutOfRange : F32 → I32

/-- What TDIV gives for the divisor 0, for which rule R182 (`d > 0`) states no result. Free: any function of the dividend.
DESIGN CHOICE: log entry 21. -/
opaque Config.tdivByZero : Int → Int

/-- `NAN_PAYLOAD` (rules R8 and R159, U4): the sign bit and the 22 free fraction bits of the quiet NaN that draw
number `n` returns. Free: any sequence. Log entry 9. -/
opaque Config.nanPayload : Nat → BitVec 23

end Sys2Proof
end

