-- ==== Sys2Proof/Syntax.lean ====
section
/-! DEFINITION. The operations of the core (00_scope.md rule R4), one constructor per row of
spec/opcode_table.json, with the data they carry, and the code spaces their encodings stand in. -/

namespace Sys2Proof

/-- The six field types a tag selects (30_encoding.md rule R73). -/
inductive FieldType where
  | int16
  | uint16
  | int32
  | uint32
  | float32
  | uint8
  deriving DecidableEq, Repr

/-- A decoded field: a tagged value, read only as the type its constructor names (40_field_codec.md rule R110,
values of 30_encoding.md rule R74). A binary32 payload keeps its 32 bits. -/
inductive Field where
  | int16 (v : Int)
  | uint16 (v : Nat)
  | int32 (v : Int)
  | uint32 (v : Nat)
  | float32 (v : F32)
  | uint8 (v : Nat)
  deriving DecidableEq, Repr

/-- The five decode errors (60_exceptions.md rule R210). -/
inductive DecodeError where
  | badHeader
  | checksumMismatch
  | truncated
  | unknownFieldType
  | malformedPayload
  deriving DecidableEq, Repr

/-- The six values of the `status` output (30_encoding.md rule R86); the codes 6 and 7 are never produced. -/
inductive Status where
  | ok
  | err (e : DecodeError)
  deriving DecidableEq, Repr

/-- The two byte buffers (10_state.md rule R35). -/
inductive Buf where
  | rx
  | tx
  deriving DecidableEq, Repr

/-- The ten gain values of a command frame in positional order (30_encoding.md rule R84). -/
abbrev GainSet := Vector F32 10

/-- The operations, one constructor per row of the opcode table.

`FLD.*` (rules R103 to R108) carry the operands `o` and `lim` and the raw bits `r` of the encoding; the frames
carry the field bits of their patterns; a port transaction carries its inputs (rules R40 to R43); a unit function
carries its operands (log entries 6 and 7). -/
inductive Instr where
  | fldI16 (o lim : Nat) (r : BitVec 16)
  | fldU16 (o lim : Nat) (r : BitVec 16)
  | fldI32 (o lim : Nat) (r : BitVec 32)
  | fldU32 (o lim : Nat) (r : BitVec 32)
  | fldF32 (o lim : Nat) (r : BitVec 32)
  | fldU8 (o lim : Nat) (r : BitVec 8)
  | fldInvalid (tag : Byte)
  | cmdFrame (gains : GainSet)
  | tlmFrame (running : Bool) (slots : Vector Slot 13)
  | init
  | rxFrame (frame : List Byte)
  | ctrlTick (fbIn : Vector I32 4) (tgt : Vector F32 3)
  | tlmTick (poseIn oriIn : Vector I32 3)
  | opReserved (op : BitVec 3)
  | reset
  | xor8 (b : Buf) (lo hi : Nat)
  | width (tag : Byte)
  | fldDecode (o : Nat) (tag : Byte) (lim : Nat)
  | cmdDecode (len : Nat)
  | commit (gains : GainSet)
  | tlmEncode
  | clamp (x lo hi : F32)
  | pidTick (a : Fin 7) (feedback target : F32)
  | i2f (i : I32)
  | f2i (x : F32)
  | tdiv (n : Int) (d : Nat)
  | mixFwd (m : Vector I32 4)
  | mixInv (tv : Vector F32 3)
  deriving DecidableEq, Repr

/-- The code space a word of bytes is read in: a port request, whose first byte holds the 3-bit selector `op`
(rule R85); a field standing with its first value byte at offset `o` under the limit `lim` (rule R73); a command
frame (rule R70); a telemetry frame (rule R80). -/
inductive Space where
  | op
  | field (o lim : Nat)
  | command
  | telemetry
  deriving DecidableEq, Repr

end Sys2Proof
end

