-- ==== Sys2Proof/WellFormed.lean ====
section
/-! DEFINITION. Which terms of Instr are operations the spec can speak of: the conditions its rules put on
their operands. -/

namespace Sys2Proof

/-- The capacity of a buffer (20_memory.md rule R50). -/
def Buf.capacity : Buf → Nat
  | .rx => Config.rxCap
  | .tx => Config.tlmLen

/-- A field stands after its tag (`o - 1` is an offset) and its limit leaves room for the checksum and the trailer
inside the receive buffer (rules R51 and R62: `lim = len - 2` and `len <= RXCAP`). -/
def fieldPlaced (o lim : Nat) : Bool :=
  decide (1 ≤ o) && decide (lim + 2 ≤ Config.rxCap)

/-- Well-formed operations: the operands meet the conditions of the instruction's rule. -/
def Instr.wellFormed : Instr → Bool
  | .fldI16 o lim _ => fieldPlaced o lim
  | .fldU16 o lim _ => fieldPlaced o lim
  | .fldI32 o lim _ => fieldPlaced o lim
  | .fldU32 o lim _ => fieldPlaced o lim
  | .fldF32 o lim _ => fieldPlaced o lim
  | .fldU8 o lim _ => fieldPlaced o lim
  | .fldInvalid tag => decide (6 ≤ tag.toNat)
  | .cmdFrame _ => true
  | .tlmFrame _ _ => true
  | .init => true
  | .rxFrame frame => decide (frame.length ≤ Config.rxCap)
  | .ctrlTick _ _ => true
  | .tlmTick _ _ => true
  | .opReserved op => decide (op.toNat = 0) || decide (5 ≤ op.toNat)
  | .reset => true
  | .xor8 b lo hi => decide (lo ≤ hi) && decide (hi ≤ b.capacity)
  | .width _ => true
  | .fldDecode o _ lim => fieldPlaced o lim
  | .cmdDecode len => decide (len ≤ Config.rxCap)
  | .commit _ => true
  | .tlmEncode => true
  | .clamp _ _ _ => true
  | .pidTick _ _ _ => true
  | .i2f _ => true
  | .f2i _ => true
  | .tdiv _ d => decide (1 ≤ d)
  | .mixFwd _ => true
  | .mixInv _ => true

end Sys2Proof
end

