-- ==== Sys2Proof/Machine/Operands.lean ====
section
/-! DEFINITION. Byte order, widths and the reads of a byte buffer: `MemRead` and the bit slices of 00_scope.md
rules R9 to R11, 20_memory.md rules R51 to R53 and 40_field_codec.md rule R100. A buffer is read here as the list
of its bytes, offset 0 first. -/

namespace Sys2Proof.Machine

/-- The two bytes of a 16-bit value, low byte first (rules R52 and R53). -/
def le16 (v : BitVec 16) : List Byte :=
  [v.extractLsb' 0 8, v.extractLsb' 8 8]

/-- The four bytes of a 32-bit value, low byte first (rule R53). -/
def le32 (v : BitVec 32) : List Byte :=
  [v.extractLsb' 0 8, v.extractLsb' 8 8, v.extractLsb' 16 8, v.extractLsb' 24 8]

/-- `b1 ++ b0`: the byte at the lower offset is the least significant (rule R51). -/
def join16 (b0 b1 : Byte) : BitVec 16 :=
  b1 ++ b0

/-- `b3 ++ b2 ++ b1 ++ b0` (rule R51). -/
def join32 (b0 b1 b2 b3 : Byte) : BitVec 32 :=
  b3 ++ b2 ++ b1 ++ b0

/-- The byte of a buffer at an offset. -/
def byteAt (b : List Byte) (i : Nat) : Byte :=
  b.getD i Config.unwrittenByte

/-- `MemRead(off, 1)` (rule R51). -/
def memRead1 (b : List Byte) (off : Nat) : BitVec 8 :=
  byteAt b off

/-- `MemRead(off, 2)` (rule R51). -/
def memRead2 (b : List Byte) (off : Nat) : BitVec 16 :=
  join16 (byteAt b off) (byteAt b (off + 1))

/-- `MemRead(off, 4)` (rule R51). -/
def memRead4 (b : List Byte) (off : Nat) : BitVec 32 :=
  join32 (byteAt b off) (byteAt b (off + 1)) (byteAt b (off + 2)) (byteAt b (off + 3))

/-- `sext_16` to an integer (rules R10 and R74). -/
def sext16 (r : BitVec 16) : Int :=
  r.toInt

/-- `zext_16` to an integer (rules R10 and R74). -/
def zext16 (r : BitVec 16) : Nat :=
  r.toNat

/-- `trunc_16(v) = v[15:0]` (rules R10 and R143). -/
def trunc16 (v : I32) : Slot :=
  v.extractLsb' 0 16

/-- The exclusive-or of all bytes of a list; `0x00` for none (rule R100). -/
def xorBytes (bs : List Byte) : Byte :=
  bs.foldl (fun r x => r ^^^ x) 0

/-- `XOR8(b, lo, hi)`: the exclusive-or of the bytes of `b` at offsets `[lo, hi)` (rule R100). -/
def xor8 (b : List Byte) (lo hi : Nat) : Byte :=
  xorBytes ((b.drop lo).take (hi - lo))

end Sys2Proof.Machine
end

