-- ==== Sys2Proof/Machine/FieldCodec.lean ====
section
/-! DEFINITION. FieldCodec: the width function, the six field values and FLD_DECODE as pure functions
(40_field_codec.md). -/

namespace Sys2Proof.Machine

/-- The type a tag byte selects; all eight bits take part (30_encoding.md rule R73). -/
def fieldTypeOf (tag : Byte) : Option FieldType :=
  match tag.toNat with
  | 0 => some .int16
  | 1 => some .uint16
  | 2 => some .int32
  | 3 => some .uint32
  | 4 => some .float32
  | 5 => some .uint8
  | _ => none

/-- The tag byte of a type (rule R73). -/
def tagOf : FieldType → Byte
  | .int16 => 0x00
  | .uint16 => 0x01
  | .int32 => 0x02
  | .uint32 => 0x03
  | .float32 => 0x04
  | .uint8 => 0x05

/-- The number of value bytes of a type (rule R101). -/
def widthOf : FieldType → Nat
  | .int16 => 2
  | .uint16 => 2
  | .int32 => 4
  | .uint32 => 4
  | .float32 => 4
  | .uint8 => 1

/-- `WIDTH(t)`: `none` for the tags 0x06 to 0xFF (rule R101). -/
def tagWidth (tag : Byte) : Option Nat :=
  (fieldTypeOf tag).map widthOf

/-- The payload of an Int16 field (rule R103). -/
def fieldI16 (r : BitVec 16) : Field :=
  .int16 (sext16 r)

/-- The payload of a UInt16 field (rule R104). -/
def fieldU16 (r : BitVec 16) : Field :=
  .uint16 (zext16 r)

/-- The payload of an Int32 field (rule R105). -/
def fieldI32 (r : BitVec 32) : Field :=
  .int32 r.toInt

/-- The payload of a UInt32 field (rule R106). -/
def fieldU32 (r : BitVec 32) : Field :=
  .uint32 r.toNat

/-- The payload of a Float32 field: the bits as they are (rule R107). -/
def fieldF32 (r : BitVec 32) : Field :=
  .float32 r

/-- The payload of a UInt8 field (rule R108). -/
def fieldU8 (r : BitVec 8) : Field :=
  .uint8 r.toNat

/-- The value of type `ty` from `MemRead(o, w)` (rules R74 and R102). -/
def fieldAt (ty : FieldType) (b : List Byte) (o : Nat) : Field :=
  match ty with
  | .int16 => fieldI16 (memRead2 b o)
  | .uint16 => fieldU16 (memRead2 b o)
  | .int32 => fieldI32 (memRead4 b o)
  | .uint32 => fieldU32 (memRead4 b o)
  | .float32 => fieldF32 (memRead4 b o)
  | .uint8 => fieldU8 (memRead1 b o)

/-- The bound of rule R102: a value of `w` bytes at `o` may end at `lim` and may not reach over it. -/
def boundField (o w lim : Nat) (f : Field) : Except DecodeError (Field × Nat) :=
  if lim < o + w then .error .truncated else .ok (f, o + w)

/-- `FLD_DECODE(rx, o, t, lim)`: the tag is tested first, then the bound (rule R102). -/
def decodeFieldAt (b : List Byte) (o : Nat) (tag : Byte) (lim : Nat) : Except DecodeError (Field × Nat) :=
  match fieldTypeOf tag with
  | none => .error .unknownFieldType
  | some ty => boundField o (widthOf ty) lim (fieldAt ty b o)

end Sys2Proof.Machine
end

