-- ==== Sys2Proof/Machine/FrameDecoder.lean ====
section
/-! DEFINITION. FrameDecoder: CMD_DECODE as a pure function of the frame's bytes, `len` being their number
(41_frame_decoder.md rules R120 to R127). -/

namespace Sys2Proof.Machine

/-- The walk (rule R124): `n` fields are still to be read, the cursor stands at `off`. Answers the fields in order
and the cursor after the last. -/
def walk (b : List Byte) (lim : Nat) : Nat → Nat → Except DecodeError (List Field × Nat)
  | 0, off => .ok ([], off)
  | n + 1, off =>
    if lim ≤ off then .error .truncated
    else
      match decodeFieldAt b (off + 1) (byteAt b off) lim with
      | .error e => .error e
      | .ok (f, off') =>
        match walk b lim n off' with
        | .error e => .error e
        | .ok (fs, last) => .ok (f :: fs, last)

/-- The payloads of a sequence of Float32 fields; `none` where some field has another type (rule R125). -/
def floatPayloads : List Field → Option (List F32)
  | [] => some []
  | .float32 v :: fs => (floatPayloads fs).map (v :: ·)
  | _ :: _ => none

/-- Ten payloads as a gain set (rule R84). -/
def gainSetOf : List F32 → Option GainSet
  | [g0, g1, g2, g3, g4, g5, g6, g7, g8, g9] => some #v[g0, g1, g2, g3, g4, g5, g6, g7, g8, g9]
  | _ => none

/-- Step 5, the command layout: ten fields, all Float32, no byte left over (rule R125). -/
def layoutGains (count : Nat) (fields : List Field) (off lim : Nat) : Except DecodeError GainSet :=
  if count ≠ Config.nGain then .error .malformedPayload
  else if off ≠ lim then .error .malformedPayload
  else
    match (floatPayloads fields).bind gainSetOf with
    | none => .error .malformedPayload
    | some g => .ok g

/-- `CMD_DECODE(rx, len)` (rule R120): framing (R121), checksum (R122), count (R123), walk (R124), layout (R125), in
that order, the first failing test deciding the error (R127). -/
def decodeCommandFrame (checkTrailer : Bool) (b : List Byte) : Except DecodeError GainSet :=
  if b.length < 5 then .error .badHeader
  else if byteAt b 0 ≠ 0xAA ∨ byteAt b 1 ≠ 0x55 then .error .badHeader
  else if checkTrailer = true ∧ byteAt b (b.length - 1) ≠ 0x5D then .error .badHeader
  else if xor8 b 0 (b.length - 2) ≠ byteAt b (b.length - 2) then .error .checksumMismatch
  else
    match walk b (b.length - 2) (byteAt b 2).toNat 3 with
    | .error e => .error e
    | .ok (fields, off) => layoutGains (byteAt b 2).toNat fields off (b.length - 2)

end Sys2Proof.Machine
end

