-- ==== Sys2Proof/Decode.lean ====
section
/-! DEFINITION. The decoder, total on any bytes and rejecting by name, and after it the encoder, both written
from 30_encoding.md. The tag space (rule R73), the op space (rule R85) and the two frame formats (rules R70 and
R80) are separate code spaces; the layout of a port request's inputs after its selector is the model's own
(log entry 2). A row without an encoding (RESET and the unit functions, rule R90) is never decoded. -/

namespace Sys2Proof

open Machine

/-- Why bytes encode no operation. What a waiting request of such bytes does then is in Machine/Ingress.lean (log entry
23). -/
inductive Reject where
  /-- No byte at all. -/
  | noBytes
  /-- A port request whose first byte has a bit above the 3-bit selector set (rule R85, log entry 3). -/
  | selectorHighBits
  /-- The bytes end before the operation's inputs do. -/
  | operandsMissing
  /-- An RX_FRAME longer than the receive buffer (rule R61). -/
  | overlongFrame
  /-- Not the accepted form of a command frame; the error is the one CMD_DECODE reports (rule R131). -/
  | notCommandFrame (e : DecodeError)
  /-- Not of the telemetry frame's form (rule R80). -/
  | notTelemetryFrame
  deriving DecidableEq, Repr

/-- What a decoder answers: the operation and the bytes after it. -/
abbrev Decoded := Except Reject (Instr × List Byte)

/-- Reads `n` 32-bit words, each low byte first. -/
def takeWords : Nat → List Byte → Option (List (BitVec 32) × List Byte)
  | 0, bs => some ([], bs)
  | n + 1, b0 :: b1 :: b2 :: b3 :: bs =>
    match takeWords n bs with
    | none => none
    | some (ws, rest) => some (join32 b0 b1 b2 b3 :: ws, rest)
  | _ + 1, _ => none

/-- A field on the wire: the tag byte, then the value (rules R73, R103 to R109). -/
def decodeField (o lim : Nat) : List Byte → Decoded
  | [] => .error .noBytes
  | tag :: bs =>
    match fieldTypeOf tag, bs with
    | none, _ => .ok (.fldInvalid tag, bs)
    | some .int16, b0 :: b1 :: rest => .ok (.fldI16 o lim (join16 b0 b1), rest)
    | some .uint16, b0 :: b1 :: rest => .ok (.fldU16 o lim (join16 b0 b1), rest)
    | some .int32, b0 :: b1 :: b2 :: b3 :: rest => .ok (.fldI32 o lim (join32 b0 b1 b2 b3), rest)
    | some .uint32, b0 :: b1 :: b2 :: b3 :: rest => .ok (.fldU32 o lim (join32 b0 b1 b2 b3), rest)
    | some .float32, b0 :: b1 :: b2 :: b3 :: rest => .ok (.fldF32 o lim (join32 b0 b1 b2 b3), rest)
    | some .uint8, b0 :: rest => .ok (.fldU8 o lim b0, rest)
    | some _, _ => .error .operandsMissing

/-- RX_FRAME's inputs: `len`, then the frame's bytes (rule R40; layout log entry 2). -/
def decodeRxInputs : List Byte → Decoded
  | [] => .error .operandsMissing
  | len :: bs =>
    if Config.rxCap < len.toNat then .error .overlongFrame
    else if bs.length < len.toNat then .error .operandsMissing
    else .ok (.rxFrame (bs.take len.toNat), bs.drop len.toNat)

/-- CTRL_TICK's inputs: `fb_in[0..3]`, then `tgt[0..2]` (rule R41; layout log entry 2). -/
def decodeCtrlInputs (bs : List Byte) : Decoded :=
  match takeWords 7 bs with
  | some ([m0, m1, m2, m3, t0, t1, t2], rest) => .ok (.ctrlTick #v[m0, m1, m2, m3] #v[t0, t1, t2], rest)
  | _ => .error .operandsMissing

/-- TLM_TICK's inputs: `pose_in[0..2]`, then `ori_in[0..2]` (rule R42; layout log entry 2). -/
def decodeTlmInputs (bs : List Byte) : Decoded :=
  match takeWords 6 bs with
  | some ([x, y, z, roll, pitch, yaw], rest) => .ok (.tlmTick #v[x, y, z] #v[roll, pitch, yaw], rest)
  | _ => .error .operandsMissing

/-- A port request: the selector in the low three bits of the first byte (rules R85 and R87). -/
def decodeOp : List Byte → Decoded
  | [] => .error .noBytes
  | sel :: bs =>
    if 8 ≤ sel.toNat then .error .selectorHighBits
    else
      match sel.toNat with
      | 1 => .ok (.init, bs)
      | 2 => decodeRxInputs bs
      | 3 => decodeCtrlInputs bs
      | 4 => decodeTlmInputs bs
      | _ => .ok (.opReserved (sel.extractLsb' 0 3), bs)

/-- A command frame of the only accepted form (rules R131 and R84). -/
def decodeCommand (bs : List Byte) : Decoded :=
  match decodeCommandFrame true bs with
  | .ok g => .ok (.cmdFrame g, [])
  | .error e => .error (.notCommandFrame e)

/-- The thirteen slots of a telemetry frame (rules R80 and R142). -/
def telemetrySlots (b : List Byte) : Vector Slot 13 :=
  #v[memRead2 b 4, memRead2 b 6, memRead2 b 8, memRead2 b 10, memRead2 b 12, memRead2 b 14, memRead2 b 16,
    memRead2 b 18, memRead2 b 20, memRead2 b 22, memRead2 b 24, memRead2 b 26, memRead2 b 28]

/-- A telemetry frame (rule R80). The core has no telemetry decoder: this reads the row TLMFRAME alone, whose pattern has
zeros in bits 7:1 of byte 3, so that a word with 02 to FF there is not read. A receiver, outside the core, tests byte 3 for
nonzero (rule R81). DESIGN CHOICE: log entry 25. -/
def decodeTelemetry (bs : List Byte) : Decoded :=
  if bs.length = Config.tlmLen ∧ byteAt bs 0 = 0xAA ∧ byteAt bs 1 = 0x55 ∧ byteAt bs 2 = 0x20
      ∧ (byteAt bs 3 = 0 ∨ byteAt bs 3 = 1) ∧ xor8 bs 0 30 = byteAt bs 30 ∧ byteAt bs 31 = 0x5D then
    .ok (.tlmFrame (byteAt bs 3 == 1) (telemetrySlots bs), [])
  else .error .notTelemetryFrame

/-- The decoder: the operation a code space reads from bytes, and the bytes after it. -/
def decode : Space → List Byte → Decoded
  | .op, bs => decodeOp bs
  | .field o lim, bs => decodeField o lim bs
  | .command, bs => decodeCommand bs
  | .telemetry, bs => decodeTelemetry bs

/-! The encoder. -/

/-- One Float32 field of a command frame: tag 0x04 and the value (rules R73 and R107). -/
def encodeFloatField (v : F32) : List Byte :=
  0x04 :: le32 v

/-- The checksummed region of an accepted command frame (rules R70, R84 and R131). -/
def commandBody (g : GainSet) : List Byte :=
  0xAA :: 0x55 :: 0x0A :: g.toList.flatMap encodeFloatField

/-- Bytes 0 to 29 of a telemetry frame (rule R80). -/
def telemetryBody (running : Bool) (slots : Vector Slot 13) : List Byte :=
  0xAA :: 0x55 :: 0x20 :: (if running then 0x01 else 0x00) :: slots.toList.flatMap le16

/-- A checksummed region, its checksum and the trailer (rules R75, R76 and R83). -/
def sealFrame (body : List Byte) : List Byte :=
  body ++ [xorBytes body, 0x5D]

/-- The encoder: the code space and the bytes of an operation that has an encoding (rules R70, R73, R80, R85). -/
def encode : Instr → Option (Space × List Byte)
  | .fldI16 o lim r => some (.field o lim, 0x00 :: le16 r)
  | .fldU16 o lim r => some (.field o lim, 0x01 :: le16 r)
  | .fldI32 o lim r => some (.field o lim, 0x02 :: le32 r)
  | .fldU32 o lim r => some (.field o lim, 0x03 :: le32 r)
  | .fldF32 o lim r => some (.field o lim, 0x04 :: le32 r)
  | .fldU8 o lim r => some (.field o lim, [0x05, r])
  | .fldInvalid tag => some (.field 4 (Config.rxCap - 2), [tag])
  | .cmdFrame g => some (.command, sealFrame (commandBody g))
  | .tlmFrame running slots => some (.telemetry, sealFrame (telemetryBody running slots))
  | .init => some (.op, [0x01])
  | .rxFrame frame => some (.op, 0x02 :: BitVec.ofNat 8 frame.length :: frame)
  | .ctrlTick fbIn tgt => some (.op, 0x03 :: (fbIn.toList.flatMap le32 ++ tgt.toList.flatMap le32))
  | .tlmTick poseIn oriIn => some (.op, 0x04 :: (poseIn.toList.flatMap le32 ++ oriIn.toList.flatMap le32))
  | .opReserved op => some (.op, [op.setWidth 8])
  | .reset => none
  | .xor8 _ _ _ => none
  | .width _ => none
  | .fldDecode _ _ _ => none
  | .cmdDecode _ => none
  | .commit _ => none
  | .tlmEncode => none
  | .clamp _ _ _ => none
  | .pidTick _ _ _ => none
  | .i2f _ => none
  | .f2i _ => none
  | .tdiv _ _ => none
  | .mixFwd _ => none
  | .mixInv _ => none

/-! The opcode table's words. -/

/-- The low `n` bytes of a number, bits 7..0 first: the order in which the table numbers the bits. -/
def bytesOfNat : Nat → Nat → List Byte
  | 0, _ => []
  | n + 1, w => BitVec.ofNat 8 w :: bytesOfNat n (w / 256)

/-- The length in bytes of the longest port request or field: an RX_FRAME of `RXCAP` bytes (log entry 2). -/
def longestWord : Nat :=
  2 + Config.rxCap

/-- Where a field stands that is given alone: the first field of a frame (tag at offset 3, rule R54) under the
limit of the longest frame (log entry 4). -/
def loneField : Space :=
  .field 4 (Config.rxCap - 2)

/-- The code space a word of the opcode table is read in (log entry 4). A word of more than one byte is a frame
where it begins `AA 55`, else a field; a bare byte is a port request where it names an operation (1 to 4), else a
tag. -/
def tableSpace (nbits : Nat) (bs : List Byte) : Space :=
  if nbits ≤ 8 then
    if 1 ≤ (byteAt bs 0).toNat ∧ (byteAt bs 0).toNat ≤ 4 then .op else loneField
  else if byteAt bs 0 = 0xAA ∧ byteAt bs 1 = 0x55 then
    if nbits = 8 * Config.tlmLen ∧ byteAt bs 2 = 0x20 then .telemetry else .command
  else loneField

/-- The code space and the bytes of a table word: a frame is exactly its bytes, any other word is filled with zero
bytes up to the longest. -/
def tableWord (nbits w : Nat) : Space × List Byte :=
  let bs := bytesOfNat ((nbits + 7) / 8) w
  match tableSpace nbits bs with
  | .command => (.command, bs)
  | .telemetry => (.telemetry, bs)
  | sp => (sp, if nbits = 0 then [] else bs ++ List.replicate (longestWord - bs.length) 0)

/-- The operation the decoder reads from a word of the opcode table; `none` where it refuses. -/
def decodeTableWord (nbits w : Nat) : Option Instr :=
  match decode (tableWord nbits w).1 (tableWord nbits w).2 with
  | .ok (i, _) => some i
  | .error _ => none

end Sys2Proof
end

