-- ==== Sys2Proof/Machine/State.lean ====
section
/-! DEFINITION. The state of the core (10_state.md), the reasons a step can stop, and the state after reset. -/

namespace Sys2Proof.Machine

/-- The sparse contents of a byte buffer: strictly rising offsets, and no entry equal to what an unlisted offset
reads as (20_memory.md rule R50, log entry 13). -/
abbrev Memory := List Host.Cell

/-- One record of the PID state file (rule R26). -/
structure PidState where
  kp : F32
  ki : F32
  kd : F32
  ioutMax : F32
  outMax : F32
  integralAccum : F32
  lastError : F32
  lastOutput : F32
  deriving DecidableEq, Repr

/-- The link layer's accumulating receive buffer (rule R37 (1)): the bytes so far, and whether the frame being
received has overflowed and is being discarded (rule R61, log entry 15). It is kept apart from `rx`. DESIGN CHOICE: log
entry 26. -/
structure Link where
  fill : List Byte
  overflow : Bool
  deriving DecidableEq, Repr

/-- What waits outside the core (rules R37, R219 and R220, log entries 1 and 6): the input `rst`; bytes for a
decoder of a given code space (a port request, or a wire format handed to its codec); a byte arriving at the link
layer; the link layer's frame-complete signal. -/
inductive Request where
  | rst
  | word (space : Space) (bytes : List Byte)
  | rxByte (b : Byte)
  | rxComplete
  deriving DecidableEq, Repr

/-- What an operation puts on its output port (rules R40 to R43, R85, R253). Not architectural state: no
operation reads it (rules R20 and R45, log entry 8). -/
inductive Output where
  /-- No output: INIT, RESET, COMMIT, a reserved `op`, bytes that encode no operation (log entry 23). -/
  | none
  /-- `status` of RX_FRAME (rule R86). -/
  | status (st : Status)
  /-- `cmd_out` and `cmd_valid` of CTRL_TICK (rule R41). -/
  | command (cmdOut : Vector I32 4) (cmdValid : Bool)
  /-- The 32 bytes TLM_TICK hands to `send_bytes` (rule R146). -/
  | sent (bytes : List Byte)
  /-- The 32 bytes of `tx` that TLM_ENCODE returns (rule R140). -/
  | frame (bytes : List Byte)
  /-- The field and the new offset of a field decoding (rule R102). -/
  | field (f : Field) (newOffset : Nat)
  /-- The error a field or frame decoding raises (rule R210). -/
  | failed (e : DecodeError)
  /-- The gain set of a successful CMD_DECODE (rule R120). -/
  | gains (g : GainSet)
  /-- The result of XOR8 (rule R100). -/
  | byte (b : Byte)
  /-- The result of WIDTH (rule R101). -/
  | width (w : Option Nat)
  /-- A binary32 result: CLAMP, PID_TICK, I2F. -/
  | float (x : F32)
  /-- The `i32` result of F2I (rule R181). -/
  | int (i : I32)
  /-- The integer result of TDIV (rule R182). -/
  | integer (n : Int)
  /-- The body velocity of MIX_FWD (rule R183). -/
  | body (v : Vector I32 3)
  /-- The motor targets of MIX_INV (rule R186). -/
  | motors (tm : Vector F32 4)
  deriving DecidableEq, Repr

/-- The state. `fb` to `initialized` are the architectural registers of rule R20; `rx` and `tx` the two buffers
(rule R35); `link` and `pending` the hidden state outside the core that rule R37 names; `out` and `draws` the
model's own fields (log entries 8 and 9). -/
structure State where
  fb : Vector I32 4
  vel : Vector I32 3
  pose : Vector I32 3
  ori : Vector I32 3
  cmd : Vector I32 4
  pid : Vector PidState 7
  running : Bool
  initialized : Bool
  rx : Memory
  tx : Memory
  link : Link
  pending : List Request
  out : Output
  draws : Nat
  deriving DecidableEq, Repr

/-- Why the machine stops with a fault. -/
inductive Fault where
  /-- An access to a buffer offset that does not exist (rules R35 and R50). Raised by the field rows and the unit
  functions that take offsets, when an operand names bytes outside the buffer; no port transaction raises it. Safe: the spec gives no
  such access (log entry 17). -/
  | bufferOffset (b : Buf) (off : Nat)
  deriving DecidableEq, Repr

/-- Why the machine gives a request no meaning. -/
inductive Refusal where
  /-- An operation without a meaning yet. Raised by exec. Safe. -/
  | notModelled (mnemonic : String)
  /-- An RX_FRAME of more than `RXCAP` bytes (rule R61, U15: refuse). Raised by RX_FRAME; no request
  leads to it while the link layer holds no more than `RXCAP` bytes. Safe (log entry 16). -/
  | overlongFrame (len : Nat)
  deriving DecidableEq, Repr

/-- What a meaning answers. -/
abbrev Result := Host.Outcome State Fault Refusal

/-- A PID record right after reset (rule R36). -/
def PidState.reset : PidState where
  kp := Config.defaultGains.kp
  ki := Config.defaultGains.ki
  kd := Config.defaultGains.kd
  ioutMax := Config.defaultGains.ioutMax
  outMax := Config.defaultGains.outMax
  integralAccum := 0
  lastError := 0
  lastOutput := 0

/-- A link layer that has received nothing. -/
def Link.empty : Link where
  fill := []
  overflow := false

/-- The machine right after reset (rules R36 and R240); the fields that are not registers are empty (log entries 5, 8,
9, 13, 14). -/
def State.reset : State where
  fb := #v[0, 0, 0, 0]
  vel := #v[0, 0, 0]
  pose := #v[0, 0, 0]
  ori := #v[0, 0, 0]
  cmd := #v[0, 0, 0, 0]
  pid := #v[.reset, .reset, .reset, .reset, .reset, .reset, .reset]
  running := false
  initialized := false
  rx := []
  tx := []
  link := .empty
  pending := []
  out := .none
  draws := 0

end Sys2Proof.Machine
end

