-- ==== Sys2Proof/Machine/Ops.lean ====
section
/-! DEFINITION. The named operations over buffers and registers: the one way in which every meaning reads and
writes the state. -/

namespace Sys2Proof.Machine

/-! Buffers (20_memory.md rules R50 to R52). -/

/-- The byte of a buffer at an offset; a byte nothing has written reads as Config says (log entry 13). -/
def Memory.read : Memory → Nat → Byte
  | [], _ => Config.unwrittenByte
  | (a, b) :: m, x => if x = a then b else Memory.read m x

/-- Writes one byte and keeps the canonical form: writing what an unlisted offset reads as removes the entry. -/
def Memory.write : Memory → Nat → Byte → Memory
  | [], x, v => if v = Config.unwrittenByte then [] else [(x, v)]
  | (a, b) :: m, x, v =>
    if x < a then (if v = Config.unwrittenByte then (a, b) :: m else (x, v) :: (a, b) :: m)
    else if x = a then (if v = Config.unwrittenByte then m else (x, v) :: m)
    else (a, b) :: Memory.write m x v

/-- The canonical form from an offset on: offsets strictly rising, all below `cap`, no entry equal to what an
unlisted offset reads as. -/
def Memory.wfFrom (cap : Nat) : Nat → Memory → Bool
  | _, [] => true
  | lo, (a, b) :: m =>
    decide (lo ≤ a) && decide (a < cap) && decide (b ≠ Config.unwrittenByte) && Memory.wfFrom cap (a + 1) m

/-- The canonical form of a buffer of `cap` bytes. -/
def Memory.wf (cap : Nat) (m : Memory) : Bool :=
  Memory.wfFrom cap 0 m

/-- Writes the bytes of a list at consecutive offsets. -/
def Memory.writeBytes : Memory → Nat → List Byte → Memory
  | m, _, [] => m
  | m, off, b :: bs => Memory.writeBytes (Memory.write m off b) (off + 1) bs

/-- The `n` bytes of a buffer from an offset on. -/
def Memory.slice (m : Memory) (off : Nat) : Nat → List Byte
  | 0 => []
  | n + 1 => Memory.read m off :: Memory.slice m (off + 1) n

/-- `MemWrite(off, 1, v)` (rule R52). -/
def memWrite1 (m : Memory) (off : Nat) (v : Byte) : Memory :=
  m.write off v

/-- `MemWrite(off, 2, v)`: low byte first (rule R52). -/
def memWrite2 (m : Memory) (off : Nat) (v : BitVec 16) : Memory :=
  m.writeBytes off (le16 v)

/-! Register writes, one for each group of fields that some operation writes. -/

/-- Puts the outputs of an operation on its port (log entry 8). -/
def State.withOut (s : State) (o : Output) : State :=
  { s with out := o }

/-- Writes `fb` and `vel` (rules R21 and R22). -/
def State.withMotion (s : State) (fb : Vector I32 4) (vel : Vector I32 3) : State :=
  { s with fb := fb, vel := vel }

/-- Writes `pose` and `ori` (rules R23 and R24). -/
def State.withSensors (s : State) (pose ori : Vector I32 3) : State :=
  { s with pose := pose, ori := ori }

/-- Writes `cmd` (rule R25). -/
def State.withCmd (s : State) (cmd : Vector I32 4) : State :=
  { s with cmd := cmd }

/-- Writes the PID state file (rule R26). -/
def State.withPid (s : State) (pid : Vector PidState 7) : State :=
  { s with pid := pid }

/-- Replaces the receive buffer (rule R60). -/
def State.withRx (s : State) (rx : Memory) : State :=
  { s with rx := rx }

/-- Replaces the transmit buffer (rule R35). -/
def State.withTx (s : State) (tx : Memory) : State :=
  { s with tx := tx }

/-- Takes `n` draws of the free NaN (log entry 9). -/
def State.takeDraws (s : State) (n : Nat) : State :=
  { s with draws := s.draws + n }

/-- Replaces the link layer's state (rule R37). -/
def State.withLink (s : State) (link : Link) : State :=
  { s with link := link }

/-- Replaces the waiting requests (rule R220). -/
def State.withPending (s : State) (pending : List Request) : State :=
  { s with pending := pending }

/-- Writes `running` (rule R31). -/
def State.withRunning (s : State) (b : Bool) : State :=
  { s with running := b }

/-- Writes `initialized` (rule R32). -/
def State.withInitialized (s : State) (b : Bool) : State :=
  { s with initialized := b }

/-! Errors (60_exceptions.md). -/

/-- Error entry of a unit function: the error is its result and nothing else changes (rules R102 and R214). There is
no handler, no vector and no saved state, and nothing to return from (rule R222). -/
def raiseError (e : DecodeError) (s : State) : State :=
  s.withOut (.failed e)

/-- Error entry of RX_FRAME: the kind is reported on `status` and no register is written (rules R128, R129, R214). -/
def dropFrame (e : DecodeError) (s : State) : State :=
  s.withOut (.status (.err e))

/-- The code of a status on its port (rule R86). -/
def statusCode : Status → BitVec 3
  | .ok => 0
  | .err .badHeader => 1
  | .err .checksumMismatch => 2
  | .err .truncated => 3
  | .err .unknownFieldType => 4
  | .err .malformedPayload => 5

/-- A buffer as the list of all its bytes (rule R50). -/
def State.buffer (s : State) : Buf → List Byte
  | .rx => s.rx.slice 0 Config.rxCap
  | .tx => s.tx.slice 0 Config.tlmLen

/-- The hand-off of a completed frame: its bytes stand at offsets 0 to `len - 1` of the receive buffer (rules R40 and
R60); the bytes above keep what they were (log entry 22), and are never read (rule R50). -/
def State.handOver (s : State) (frame : List Byte) : State :=
  s.withRx (s.rx.writeBytes 0 frame)

/-! The commit of a gain set. -/

/-- Writes the five gain-and-limit registers of one record and keeps the dynamic ones (rules R28 and R29). -/
def PidState.withGains (p : PidState) (kp ki kd ioutMax outMax : F32) : PidState :=
  { p with kp := kp, ki := ki, kd := kd, ioutMax := ioutMax, outMax := outMax }

/-- The position quintuple of a gain set into a record (rules R84 and R126). -/
def positionGains (g : GainSet) (p : PidState) : PidState :=
  p.withGains g[0] g[1] g[2] g[3] g[4]

/-- The velocity quintuple of a gain set into a record (rules R84 and R126). -/
def velocityGains (g : GainSet) (p : PidState) : PidState :=
  p.withGains g[5] g[6] g[7] g[8] g[9]

/-- The PID state file with a gain set in it: axes 0 to 2 take fields 0 to 4, axes 3 to 6 fields 5 to 9 (rule R126). -/
def gainsIntoFile (g : GainSet) (f : Vector PidState 7) : Vector PidState 7 :=
  #v[positionGains g f[0], positionGains g f[1], positionGains g f[2],
    velocityGains g f[3], velocityGains g f[4], velocityGains g f[5], velocityGains g f[6]]

/-! The reset of the registers. -/

/-- Every register of rule R20 at its reset value (rules R36 and R240); buffers, link layer, waiting requests and
draws are no registers and stay (log entry 14). -/
def State.resetRegisters (s : State) : State :=
  { s with
    fb := State.reset.fb
    vel := State.reset.vel
    pose := State.reset.pose
    ori := State.reset.ori
    cmd := State.reset.cmd
    pid := State.reset.pid
    running := State.reset.running
    initialized := State.reset.initialized }

end Sys2Proof.Machine
end

