-- ==== Sys2Proof/Machine/Flags.lean ====
section
/-! DEFINITION. The two flags (10_state.md rules R31 to R33): one-way, set by one operation each, cleared by reset
alone. There are no condition codes. -/

namespace Sys2Proof.Machine

/-- The commit sets `running` (rule R31). -/
def setRunning (s : State) : State :=
  s.withRunning true

/-- INIT sets `initialized` (rules R32 and R190). -/
def setInitialized (s : State) : State :=
  s.withInitialized true

/-- The gate of steps (c) to (f) of a control tick (rule R196). -/
def controlGranted (s : State) : Bool :=
  s.initialized

/-- Byte 3 of the telemetry frame (rules R81 and R141). -/
def runningByte (running : Bool) : Byte :=
  if running then 0x01 else 0x00

/-- `COMMIT(g)`: the gain set into all seven records, and `running`, as one indivisible write (rules R58 and R126). -/
def commitGains (g : GainSet) (s : State) : State :=
  setRunning (s.withPid (gainsIntoFile g s.pid))

end Sys2Proof.Machine
end

