-- ==== Sys2Proof/Machine/ExecCodec.lean ====
section
/-! DEFINITION. The meanings of the FieldCodec rows: FLD.I16 to FLD.INVALID, XOR8, WIDTH and FLD_DECODE
(40_field_codec.md). -/

namespace Sys2Proof.Machine

/-- The result of a field decoding on the output port: the field and the new offset, or the error (rule R102). A value
that lies below its limit but outside the receive buffer cannot be read (rule R35, log entry 17). -/
def reportField (r : Except DecodeError (Field × Nat)) (s : State) : Result :=
  match r with
  | .error e => .next (raiseError e s)
  | .ok (f, off) =>
    if Config.rxCap < off then .fault (.bufferOffset .rx (off - 1)) else .next (s.withOut (.field f off))

/-- FLD.I16 (rule R103). -/
def execFldI16 (o lim : Nat) (r : BitVec 16) (s : State) : Result :=
  reportField (boundField o (widthOf .int16) lim (fieldI16 r)) s

/-- FLD.U16 (rule R104). -/
def execFldU16 (o lim : Nat) (r : BitVec 16) (s : State) : Result :=
  reportField (boundField o (widthOf .uint16) lim (fieldU16 r)) s

/-- FLD.I32 (rule R105). -/
def execFldI32 (o lim : Nat) (r : BitVec 32) (s : State) : Result :=
  reportField (boundField o (widthOf .int32) lim (fieldI32 r)) s

/-- FLD.U32 (rule R106). -/
def execFldU32 (o lim : Nat) (r : BitVec 32) (s : State) : Result :=
  reportField (boundField o (widthOf .uint32) lim (fieldU32 r)) s

/-- FLD.F32 (rule R107). -/
def execFldF32 (o lim : Nat) (r : BitVec 32) (s : State) : Result :=
  reportField (boundField o (widthOf .float32) lim (fieldF32 r)) s

/-- FLD.U8 (rule R108). -/
def execFldU8 (o lim : Nat) (r : BitVec 8) (s : State) : Result :=
  reportField (boundField o (widthOf .uint8) lim (fieldU8 r)) s

/-- FLD.INVALID raises UnknownFieldType, whatever the tag of the term is (rule R109; a tag that names a type is never decoded
to this row, log entry 21). -/
def execFldInvalid (_tag : Byte) (s : State) : Result :=
  .next (raiseError .unknownFieldType s)

/-- XOR8 over one of the two buffers; an empty range gives 0x00 (rule R100). -/
def execXor8 (b : Buf) (lo hi : Nat) (s : State) : Result :=
  if lo < hi ∧ b.capacity < hi then .fault (.bufferOffset b (hi - 1))
  else .next (s.withOut (.byte (xor8 (s.buffer b) lo hi)))

/-- WIDTH (rule R101). -/
def execWidth (tag : Byte) (s : State) : Result :=
  .next (s.withOut (.width (tagWidth tag)))

/-- FLD_DECODE on the receive buffer (rule R102). -/
def execFldDecode (o : Nat) (tag : Byte) (lim : Nat) (s : State) : Result :=
  reportField (decodeFieldAt (s.buffer .rx) o tag lim) s

end Sys2Proof.Machine
end

