-- ==== Sys2Proof/Machine/Binary32.lean ====
section
/-! DEFINITION. Binary32 arithmetic (43_pid.md rules R155 to R160) and the two conversions (44_mixing_pipeline.md
rules R180 and R181). A finite value is the exact number of units of `2^-149` in it, every operation computes
exactly on these integers, and one function rounds. An operation that can make a NaN takes the number `n` of the
draw it uses (log entry 9). -/

namespace Sys2Proof.Machine

/-- Bit 31 (rule R155). -/
def fsign (x : F32) : Bool :=
  x.msb

/-- Bits 30:23, the biased exponent (rule R155). -/
def fexp (x : F32) : Nat :=
  (x.extractLsb' 23 8).toNat

/-- Bits 22:0, the fraction (rule R155). -/
def ffrac (x : F32) : Nat :=
  (x.extractLsb' 0 23).toNat

/-- Exponent 255 and a nonzero fraction (rule R155). -/
def isNaN (x : F32) : Bool :=
  decide (fexp x = 255) && decide (ffrac x ≠ 0)

/-- Exponent 255 and a zero fraction (rule R155). -/
def isInf (x : F32) : Bool :=
  decide (fexp x = 255) && decide (ffrac x = 0)

/-- Neither an infinity nor a NaN. -/
def isFinite (x : F32) : Bool :=
  decide (fexp x ≠ 255)

/-- A NaN with bit 22 set (rule R155). -/
def isQuietNaN (x : F32) : Bool :=
  isNaN x && x.getLsbD 22

/-- The magnitude of a finite value in units of `2^-149`, exact (rule R155: bias 127, 23 fraction bits, subnormals
at exponent 0). -/
def funits (x : F32) : Nat :=
  if fexp x = 0 then ffrac x else (ffrac x + 2 ^ 23) * 2 ^ (fexp x - 1)

/-- The value of a finite pattern in units of `2^-149`. -/
def fvalue (x : F32) : Int :=
  if fsign x then -(funits x : Int) else (funits x : Int)

/-- A pattern from its sign and its low 31 bits. -/
def fpack (neg : Bool) (low31 : Nat) : F32 :=
  BitVec.ofNat 32 (low31 + if neg then 2 ^ 31 else 0)

/-- An infinity. -/
def finf (neg : Bool) : F32 :=
  fpack neg 0x7F800000

/-- `m / 2^t` rounded to the nearest integer, ties to even (rule R156). -/
def roundShift (m t : Nat) : Nat :=
  let q := m / 2 ^ t
  let r := m % 2 ^ t
  if 2 ^ t < 2 * r ∨ (2 * r = 2 ^ t ∧ q % 2 = 1) then q + 1 else q

/-- The low 31 bits of the binary32 value nearest to `m` units of `2^-(149+k)`, ties to even. The significand keeps
24 bits (fewer for a subnormal, which has no fewer than `k` bits cut); a carry out of it moves the exponent up by
itself; what reaches exponent 255 is an infinity (rules R156 and R157). -/
def roundUnits (m k : Nat) : Nat :=
  let t := max k (m.log2 - 23)
  let p := roundShift m t + (t - k) * 2 ^ 23
  if 0x7F800000 ≤ p then 0x7F800000 else p

/-- The quiet NaN of draw `n` (rule R159, log entry 9): sign and 22 fraction bits free, exponent 255, bit 22 set. -/
def freeNaN (n : Nat) : F32 :=
  fpack (Config.nanPayload n).msb (0x7FC00000 + ((Config.nanPayload n).extractLsb' 0 22).toNat)

/-- `fneg` flips bit 31 and nothing else (rule R158). -/
def fneg (a : F32) : F32 :=
  a ^^^ 0x80000000

/-- `fadd(a, b)` (rules R156 and R159). A sum of two zeros of like sign keeps the sign; infinities follow IEEE 754
(log entry 12). -/
def fadd (n : Nat) (a b : F32) : F32 :=
  if isNaN a || isNaN b then freeNaN n
  else if isInf a then (if isInf b && (fsign a != fsign b) then freeNaN n else a)
  else if isInf b then b
  else
    let z := fvalue a + fvalue b
    if z = 0 then fpack (fsign a && fsign b) 0 else fpack (decide (z < 0)) (roundUnits z.natAbs 0)

/-- `fsub(a, b) = fadd(a, fneg(b))` (rule R156). -/
def fsub (n : Nat) (a b : F32) : F32 :=
  fadd n a (fneg b)

/-- `fmul(a, b)` (rules R157 and R159); the product of two unit counts counts units of `2^-298`. -/
def fmul (n : Nat) (a b : F32) : F32 :=
  let neg := fsign a != fsign b
  if isNaN a || isNaN b then freeNaN n
  else if isInf a then (if isFinite b && decide (funits b = 0) then freeNaN n else finf neg)
  else if isInf b then (if decide (funits a = 0) then freeNaN n else finf neg)
  else fpack neg (roundUnits (funits a * funits b) 149)

/-- The place of a pattern that is no NaN in the order of values: both zeros at 0, infinities at the ends. -/
def forder (x : F32) : Int :=
  if fsign x then -((x.toNat % 2 ^ 31 : Nat) : Int) else ((x.toNat % 2 ^ 31 : Nat) : Int)

/-- `a > b`, false on a NaN (rule R158). -/
def fgt (a b : F32) : Bool :=
  !isNaN a && !isNaN b && decide (forder b < forder a)

/-- `a < b`, false on a NaN (rule R158). -/
def flt (a b : F32) : Bool :=
  !isNaN a && !isNaN b && decide (forder a < forder b)

/-- `a <= b`, false on a NaN: what the bounds of rules R160 and R164 speak of. -/
def fle (a b : F32) : Bool :=
  !isNaN a && !isNaN b && decide (forder a ≤ forder b)

/-- `CLAMP(x, lo, hi)`: the upper bound is tested first (rule R160). -/
def fclamp (x lo hi : F32) : F32 :=
  if fgt x hi then hi else if flt x lo then lo else x

/-- `I2F(i)`: the binary32 value nearest to `i`, ties to even (rule R180). -/
def intToFloat (i : I32) : F32 :=
  fpack (decide (i.toInt < 0)) (roundUnits (i.toInt.natAbs * 2 ^ 149) 0)

/-- `F2I(x)`: the fraction discarded where the result is an `i32`, else the free function (rule R181, log entry 10). -/
def floatToInt (x : F32) : I32 :=
  let q : Nat := funits x / 2 ^ 149
  if isFinite x then
    if fsign x then (if q ≤ 2 ^ 31 then BitVec.ofInt 32 (-(q : Int)) else Config.f2iOutOfRange x)
    else (if q < 2 ^ 31 then BitVec.ofNat 32 q else Config.f2iOutOfRange x)
  else Config.f2iOutOfRange x

end Sys2Proof.Machine
end

