-- ==== Sys2Proof/Machine/Mixing.lean ====
section
/-! DEFINITION. The mixing matrix and its inverse (44_mixing_pipeline.md rules R182 to R187) as pure functions. -/

namespace Sys2Proof.Machine

/-- `TDIV(n, d)`: the quotient rounded toward zero (rule R182); for `d = 0`, of which the rule states no result, the free
value (log entry 21). -/
def truncDiv (n : Int) (d : Nat) : Int :=
  if d = 0 then Config.tdivByZero n else n.tdiv d

/-- `sx`, the exact sum of the first row (rule R183). -/
def mixSumX (m : Vector I32 4) : Int :=
  m[0].toInt + m[1].toInt + m[2].toInt + m[3].toInt

/-- `sy`, the exact sum of the second row (rule R183). -/
def mixSumY (m : Vector I32 4) : Int :=
  -m[0].toInt + m[1].toInt + m[2].toInt - m[3].toInt

/-- `sz`, the exact sum of the third row (rule R183). -/
def mixSumZ (m : Vector I32 4) : Int :=
  -m[0].toInt + m[1].toInt - m[2].toInt + m[3].toInt

/-- `MIX_FWD(m)`: sums in more than 32 bits, then the divisions (rule R183); the quotients fit (rule R184). -/
def mixForward (l : Nat) (m : Vector I32 4) : Vector I32 3 :=
  #v[BitVec.ofInt 32 (truncDiv (mixSumX m) 4), BitVec.ofInt 32 (truncDiv (mixSumY m) 4),
    BitVec.ofInt 32 (truncDiv (mixSumZ m) (4 * l))]

/-- How many draws MIX_INV takes: one for each of its nine arithmetic operations (log entry 9). -/
def mixInverseDraws : Nat := 9

/-- `MIX_INV(tvx, tvy, tvz)` with the grouping of rule R186; `n` is the first of its draws. -/
def mixInverse (l : Nat) (n : Nat) (tv : Vector F32 3) : Vector F32 4 :=
  let t := fmul n (intToFloat (BitVec.ofNat 32 l)) tv[2]
  #v[fsub (n + 2) (fsub (n + 1) tv[0] tv[1]) t,
    fadd (n + 4) (fadd (n + 3) tv[0] tv[1]) t,
    fsub (n + 6) (fadd (n + 5) tv[0] tv[1]) t,
    fadd (n + 8) (fsub (n + 7) tv[0] tv[1]) t]

end Sys2Proof.Machine
end

