-- ==== Sys2Proof/Machine/Pid.lean ====
section
/-! DEFINITION. PIDController: one tick of one axis (43_pid.md rules R161 to R168). -/

namespace Sys2Proof.Machine

/-- The values a tick computes, in the order and under the names of rule R161. -/
structure PidWork where
  e : F32
  acc : F32
  it : F32
  p : F32
  d : F32
  u : F32
  out : F32
  deriving DecidableEq, Repr

/-- How many draws a tick takes: one for each of its eight arithmetic operations (log entry 9). -/
def pidDraws : Nat := 8

/-- The computation of PID_TICK, every operation rounded on its own, the sum from left to right (rules R161 and R162);
`n` is the first of its draws. -/
def pidCompute (n : Nat) (r : PidState) (feedback target : F32) : PidWork :=
  let e := fsub n target feedback
  let acc := fadd (n + 1) r.integralAccum e
  let it := fclamp (fmul (n + 2) r.ki acc) (fneg r.ioutMax) r.ioutMax
  let p := fmul (n + 3) r.kp e
  let d := fmul (n + 5) r.kd (fsub (n + 4) e r.lastError)
  let u := fadd (n + 7) (fadd (n + 6) p it) d
  { e := e, acc := acc, it := it, p := p, d := d, u := u, out := fclamp u (fneg r.outMax) r.outMax }

/-- The record after a tick: the three dynamic registers written, gains and limits kept (rules R29 and R161). -/
def PidState.afterTick (r : PidState) (w : PidWork) : PidState :=
  { r with integralAccum := w.acc, lastError := w.e, lastOutput := w.out }

/-- What axis `a` computes in this state. -/
def axisWork (a : Fin 7) (feedback target : F32) (s : State) : PidWork :=
  pidCompute s.draws s.pid[a] feedback target

/-- The state after a tick of axis `a` (rule R161). -/
def axisTick (a : Fin 7) (feedback target : F32) (s : State) : State :=
  (s.withPid (s.pid.set a (s.pid[a].afterTick (axisWork a feedback target s)))).takeDraws pidDraws

end Sys2Proof.Machine
end

