-- ==== Sys2Proof/Machine/Control.lean ====
section
/-! DEFINITION. ControlPipeline: the control tick (44_mixing_pipeline.md rules R195 to R201). -/

namespace Sys2Proof.Machine

/-- Where gain sets land inside a control tick: entry `k` is committed at boundary `k`, before axis `k` is ticked for
`k` in 0..6 and after the last tick for `k` = 7 (20_memory.md rule R57). -/
abbrev Landing := Vector (Option GainSet) 8

/-- No commit inside the tick: `COMMIT_GRANULARITY = operation` (rule R56). -/
def noLanding : Landing :=
  #v[none, none, none, none, none, none, none, none]

/-- The commit of a boundary, where one lands there. -/
def landCommit (g : Option GainSet) (s : State) : State :=
  match g with
  | none => s
  | some g => commitGains g s

/-- Steps (a) and (b): the feedback and the body velocity (rules R183 and R195). -/
def senseMotion (fbIn : Vector I32 4) (s : State) : State :=
  s.withMotion fbIn (mixForward Config.kinematicL fbIn)

/-- A tick of axis `a`, after what lands before it: its output and the state (rules R57 and R200). -/
def landedTick (g : Option GainSet) (a : Fin 7) (feedback target : F32) (s : State) : F32 × State :=
  let s' := landCommit g s
  ((axisWork a feedback target s').out, axisTick a feedback target s')

/-- Step (c), the outer loop: axes 0, 1, 2 against the targets, the feedback being the body velocity (rule R197). -/
def outerLoop (land : Landing) (tgt : Vector F32 3) (s : State) : Vector F32 3 × State :=
  let r0 := landedTick land[0] 0 (intToFloat s.vel[0]) tgt[0] s
  let r1 := landedTick land[1] 1 (intToFloat s.vel[1]) tgt[1] r0.2
  let r2 := landedTick land[2] 2 (intToFloat s.vel[2]) tgt[2] r1.2
  (#v[r0.1, r1.1, r2.1], r2.2)

/-- Step (d): the motor targets (rule R186). -/
def distribute (tv : Vector F32 3) (s : State) : Vector F32 4 × State :=
  (mixInverse Config.kinematicL s.draws tv, s.takeDraws mixInverseDraws)

/-- Step (e), the inner loop: axes 3 to 6 against the motor targets, the feedback being the motors' (rule R198). -/
def innerLoop (land : Landing) (tm : Vector F32 4) (s : State) : Vector F32 4 × State :=
  let r0 := landedTick land[3] 3 (intToFloat s.fb[0]) tm[0] s
  let r1 := landedTick land[4] 4 (intToFloat s.fb[1]) tm[1] r0.2
  let r2 := landedTick land[5] 5 (intToFloat s.fb[2]) tm[2] r1.2
  let r3 := landedTick land[6] 6 (intToFloat s.fb[3]) tm[3] r2.2
  (#v[r0.1, r1.1, r2.1, r3.1], r3.2)

/-- The commands of step (f) (rule R199). -/
def commandsOf (o : Vector F32 4) : Vector I32 4 :=
  #v[floatToInt o[0], floatToInt o[1], floatToInt o[2], floatToInt o[3]]

/-- Steps (c) to (f) (rules R195, R199 and R200). -/
def cascade (land : Landing) (tgt : Vector F32 3) (s : State) : State :=
  let outer := outerLoop land tgt s
  let dist := distribute outer.1 outer.2
  let inner := innerLoop land dist.1 dist.2
  landCommit land[7] (inner.2.withCmd (commandsOf inner.1))

/-- CTRL_TICK with the gain sets that land inside it (rules R57, R195 and R196). With `initialized = 0` no PID_TICK runs, so
none of the eight boundaries of rule R57 exists, and nothing lands: the argument is not looked at, gains and `running` stay.
DESIGN CHOICE: the spec is silent there, log entry 27. -/
def controlTickLanding (land : Landing) (fbIn : Vector I32 4) (tgt : Vector F32 3) (s : State) : State :=
  let s1 := senseMotion fbIn s
  if controlGranted s1 then
    let s2 := cascade land tgt s1
    s2.withOut (.command s2.cmd true)
  else s1.withOut (.command s1.cmd false)

/-- CTRL_TICK of this hardware: no commit lands inside it (rules R56 and R195, log entry 18). -/
def controlTick (fbIn : Vector I32 4) (tgt : Vector F32 3) (s : State) : State :=
  controlTickLanding noLanding fbIn tgt s

end Sys2Proof.Machine
end

