-- ==== Sys2Proof/Machine/ExecControl.lean ====
section
/-! DEFINITION. The meanings of the arithmetic and control rows: CLAMP, PID_TICK (43_pid.md), I2F, F2I, TDIV, MIX_FWD,
MIX_INV, INIT, CTRL_TICK (44_mixing_pipeline.md), OP.RESERVED (30_encoding.md) and RESET (70_reset_and_hazards.md). -/

namespace Sys2Proof.Machine

/-- CLAMP (rule R160). -/
def execClamp (x lo hi : F32) (s : State) : Result :=
  .next (s.withOut (.float (fclamp x lo hi)))

/-- PID_TICK (rule R161). -/
def execPidTick (a : Fin 7) (feedback target : F32) (s : State) : Result :=
  .next ((axisTick a feedback target s).withOut (.float (axisWork a feedback target s).out))

/-- I2F (rule R180). -/
def execI2f (i : I32) (s : State) : Result :=
  .next (s.withOut (.float (intToFloat i)))

/-- F2I (rule R181). -/
def execF2i (x : F32) (s : State) : Result :=
  .next (s.withOut (.int (floatToInt x)))

/-- TDIV (rule R182). -/
def execTdiv (n : Int) (d : Nat) (s : State) : Result :=
  .next (s.withOut (.integer (truncDiv n d)))

/-- MIX_FWD (rule R183). -/
def execMixFwd (m : Vector I32 4) (s : State) : Result :=
  .next (s.withOut (.body (mixForward Config.kinematicL m)))

/-- MIX_INV (rule R186). -/
def execMixInv (tv : Vector F32 3) (s : State) : Result :=
  let r := distribute tv s
  .next (r.2.withOut (.motors r.1))

/-- INIT (rule R190). -/
def execInit (s : State) : Result :=
  .next ((setInitialized s).withOut .none)

/-- CTRL_TICK (rule R195). -/
def execCtrlTick (fbIn : Vector I32 4) (tgt : Vector F32 3) (s : State) : Result :=
  .next (controlTick fbIn tgt s)

/-- OP.RESERVED: ignored, no state changes and no output is produced (rule R87, log entry 20), whatever the selector of the
term is (a selector that names an operation is never decoded to this row, log entry 21). -/
def execOpReserved (_op : BitVec 3) (s : State) : Result :=
  .next (s.withOut .none)

/-- RESET (rule R240). -/
def execReset (s : State) : Result :=
  .next (s.resetRegisters.withOut .none)

end Sys2Proof.Machine
end

