-- ==== Sys2Proof/Machine/Telemetry.lean ====
section
/-! DEFINITION. FrameEncoder: the telemetry frame written into the transmit buffer (42_frame_encoder.md rules R140 to
R144). -/

namespace Sys2Proof.Machine

/-- The thirteen slots in order of offset: `cmd`, `vel`, `pose`, `ori`, each truncated to 16 bits (rules R142, R143). -/
def registerSlots (s : State) : Vector Slot 13 :=
  #v[trunc16 s.cmd[0], trunc16 s.cmd[1], trunc16 s.cmd[2], trunc16 s.cmd[3],
    trunc16 s.vel[0], trunc16 s.vel[1], trunc16 s.vel[2],
    trunc16 s.pose[0], trunc16 s.pose[1], trunc16 s.pose[2],
    trunc16 s.ori[0], trunc16 s.ori[1], trunc16 s.ori[2]]

/-- `MemWrite(off, 2, v)` for each slot, two bytes apart (rule R140). -/
def writeSlots : Memory → Nat → List Slot → Memory
  | m, _, [] => m
  | m, off, v :: vs => writeSlots (memWrite2 m off v) (off + 2) vs

/-- The header bytes, the flag byte and the slots (rules R140 to R142). -/
def writeTelemetryBody (m : Memory) (running : Bool) (slots : Vector Slot 13) : Memory :=
  writeSlots
    (memWrite1 (memWrite1 (memWrite1 (memWrite1 m 0 0xAA) 1 0x55) 2 0x20) 3 (runningByte running))
    4 slots.toList

/-- The whole frame: the checksum is taken over the thirty bytes just written (rules R140 and R144). -/
def writeTelemetry (m : Memory) (running : Bool) (slots : Vector Slot 13) : Memory :=
  let body := writeTelemetryBody m running slots
  memWrite1 (memWrite1 body 30 (xor8 (body.slice 0 Config.tlmLen) 0 30)) 31 0x5D

/-- TLM_ENCODE on the registers of this state: it writes `tx` and nothing else (rule R140). -/
def encodeTelemetry (s : State) : State :=
  s.withTx (writeTelemetry s.tx s.running (registerSlots s))

end Sys2Proof.Machine
end

