-- ==== Sys2Proof/Machine/ExecFrame.lean ====
section
/-! DEFINITION. The meanings of the frame rows: CMDFRAME, CMD_DECODE, COMMIT, RX_FRAME (41_frame_decoder.md) and
TLMFRAME, TLM_ENCODE, TLM_TICK (42_frame_encoder.md). -/

namespace Sys2Proof.Machine

/-- The result of a frame decoding on the output port: the gain set or the error (rule R120). -/
def reportGains (r : Except DecodeError GainSet) (s : State) : State :=
  match r with
  | .ok g => s.withOut (.gains g)
  | .error e => raiseError e s

/-- CMDFRAME: CMD_DECODE of the frame with these ten values (rules R120 and R131, log entry 6). -/
def execCmdFrame (g : GainSet) (s : State) : Result :=
  .next (reportGains (decodeCommandFrame Config.checkTrailer (sealFrame (commandBody g))) s)

/-- CMD_DECODE of the first `len` bytes of the receive buffer (rule R120). -/
def execCmdDecode (len : Nat) (s : State) : Result :=
  if Config.rxCap < len then .fault (.bufferOffset .rx (len - 1))
  else .next (reportGains (decodeCommandFrame Config.checkTrailer (s.rx.slice 0 len)) s)

/-- COMMIT (rule R126). -/
def execCommit (g : GainSet) (s : State) : Result :=
  .next ((commitGains g s).withOut .none)

/-- RX_FRAME's decode and, on success only, its commit (rules R126, R128 and R129). -/
def serveFrame (len : Nat) (s : State) : State :=
  match decodeCommandFrame Config.checkTrailer (s.rx.slice 0 len) with
  | .ok g => (commitGains g s).withOut (.status .ok)
  | .error e => dropFrame e s

/-- RX_FRAME: the frame is handed over and decoded (rules R60 and R128). A frame longer than the buffer is refused (U15,
rule R61, log entry 16). -/
def execRxFrame (frame : List Byte) (s : State) : Result :=
  if Config.rxCap < frame.length then .refused (.overlongFrame frame.length)
  else .next (serveFrame frame.length (s.handOver frame))

/-- TLMFRAME: the frame with this flag and these slots is assembled in the transmit buffer (rules R80 and R140,
log entry 6). -/
def execTlmFrame (running : Bool) (slots : Vector Slot 13) (s : State) : Result :=
  let s1 := s.withTx (writeTelemetry s.tx running slots)
  .next (s1.withOut (.frame (s1.buffer .tx)))

/-- TLM_ENCODE (rule R140). -/
def execTlmEncode (s : State) : Result :=
  let s1 := encodeTelemetry s
  .next (s1.withOut (.frame (s1.buffer .tx)))

/-- TLM_TICK: the sensor snapshot, the encoding with the values just written, the hand-off to the link layer
(rule R146). -/
def execTlmTick (poseIn oriIn : Vector I32 3) (s : State) : Result :=
  let s1 := encodeTelemetry (s.withSensors poseIn oriIn)
  .next (s1.withOut (.sent (s1.buffer .tx)))

end Sys2Proof.Machine
end

