-- ==== Sys2Proof/Machine/Dispatch.lean ====
section
/-! DEFINITION. One arm per operation, in the order of spec/opcode_table.json. -/

namespace Sys2Proof.Machine

def exec (i : Instr) (s : State) : Host.Outcome State Fault Refusal :=
  match i with
  | .fldI16 o lim r => Sys2Proof.Machine.execFldI16 o lim r s
  | .fldU16 o lim r => Sys2Proof.Machine.execFldU16 o lim r s
  | .fldI32 o lim r => Sys2Proof.Machine.execFldI32 o lim r s
  | .fldU32 o lim r => Sys2Proof.Machine.execFldU32 o lim r s
  | .fldF32 o lim r => Sys2Proof.Machine.execFldF32 o lim r s
  | .fldU8 o lim r => Sys2Proof.Machine.execFldU8 o lim r s
  | .fldInvalid tag => Sys2Proof.Machine.execFldInvalid tag s
  | .cmdFrame gains => Sys2Proof.Machine.execCmdFrame gains s
  | .tlmFrame running slots => Sys2Proof.Machine.execTlmFrame running slots s
  | .init => Sys2Proof.Machine.execInit s
  | .rxFrame frame => Sys2Proof.Machine.execRxFrame frame s
  | .ctrlTick fbIn tgt => Sys2Proof.Machine.execCtrlTick fbIn tgt s
  | .tlmTick poseIn oriIn => Sys2Proof.Machine.execTlmTick poseIn oriIn s
  | .opReserved op => Sys2Proof.Machine.execOpReserved op s
  | .reset => Sys2Proof.Machine.execReset s
  | .xor8 b lo hi => Sys2Proof.Machine.execXor8 b lo hi s
  | .width tag => Sys2Proof.Machine.execWidth tag s
  | .fldDecode o tag lim => Sys2Proof.Machine.execFldDecode o tag lim s
  | .cmdDecode len => Sys2Proof.Machine.execCmdDecode len s
  | .commit gains => Sys2Proof.Machine.execCommit gains s
  | .tlmEncode => Sys2Proof.Machine.execTlmEncode s
  | .clamp x lo hi => Sys2Proof.Machine.execClamp x lo hi s
  | .pidTick a feedback target => Sys2Proof.Machine.execPidTick a feedback target s
  | .i2f v => Sys2Proof.Machine.execI2f v s
  | .f2i x => Sys2Proof.Machine.execF2i x s
  | .tdiv n d => Sys2Proof.Machine.execTdiv n d s
  | .mixFwd m => Sys2Proof.Machine.execMixFwd m s
  | .mixInv tv => Sys2Proof.Machine.execMixInv tv s

end Sys2Proof.Machine
end

