-- ==== Sys2Proof/Machine/Ingress.lean ====
section
/-! DEFINITION. How a waiting request comes to be served: the link layer's two events and the decoding of a request's
bytes (20_memory.md rules R56, R60 and R61, 60_exceptions.md rules R219 and R220). -/

namespace Sys2Proof.Machine

/-- What the next request asks of the core. -/
inductive Fetched where
  /-- Run this operation on this state. -/
  | run (i : Instr) (s : State)
  /-- No operation to run; the state is this. -/
  | quiet (s : State)
  deriving DecidableEq, Repr

/-- A byte arrives at the link layer (rules R37 and R61): it joins the fill; a byte more than the buffer holds discards
the frame being received, fill level 0; what follows of that frame is discarded too (log entry 15). -/
def Link.arrive (l : Link) (b : Byte) : Link :=
  if l.overflow then l
  else if l.fill.length < Config.rxCap then { l with fill := l.fill ++ [b] }
  else { fill := [], overflow := true }

/-- The frame is complete (rules R40, R60 and R61): the fill becomes an RX_FRAME, or, after an overflow, no request is
made and no status produced. Either way the link layer starts afresh, so that bytes which arrive behind the completed frame,
its decode still waiting or under way, start the next one and none is lost. DESIGN CHOICE: rules R60 and R247 leave it to the
link layer, log entry 26. -/
def completeFrame (s : State) : Fetched :=
  if s.link.overflow then .quiet (s.withLink .empty)
  else .run (.rxFrame s.link.fill) (s.withLink .empty)

/-- What a request gives whose bytes encode no operation: a command frame of another form than the accepted one its decode
error (rules R120 and R210), a field without all its bytes Truncated (rules R124 and R210), an overlong frame, a port request
or a telemetry frame of no known form nothing (rules R61 and R87, log entry 23). -/
def rejectOutput : Space → Reject → Output
  | .op, _ => .none
  | .field _ _, _ => .failed .truncated
  | .command, .notCommandFrame e => .failed e
  | .command, _ => .none
  | .telemetry, _ => .none

/-- Bytes handed to a decoder. Bytes after the operation's inputs are not looked at (log entry 3). -/
def fetchWord (space : Space) (bytes : List Byte) (s : State) : Fetched :=
  match decode space bytes with
  | .ok (i, _) => .run i s
  | .error why => .quiet (s.withOut (rejectOutput space why))

/-- The first waiting request is taken; with none waiting nothing happens (rules R220 and R253, log entries 1 and 5). -/
def fetch (s : State) : Fetched :=
  match s.pending with
  | [] => .quiet s
  | .rst :: rest => .run .reset (s.withPending rest)
  | .word space bytes :: rest => fetchWord space bytes (s.withPending rest)
  | .rxByte b :: rest => .quiet ((s.withPending rest).withLink (s.link.arrive b))
  | .rxComplete :: rest => completeFrame (s.withPending rest)

/-- A word of the opcode table becomes the next request served (log entry 5). -/
def State.placeWord (s : State) (nbits w : Nat) : State :=
  s.withPending (.word (tableWord nbits w).1 (tableWord nbits w).2 :: s.pending)

end Sys2Proof.Machine
end

