-- ==== Sys2Proof/Machine/Step.lean ====
section
/-! DEFINITION. One step serves one waiting request (20_memory.md rule R56). -/

namespace Sys2Proof.Machine

/-- One step of the machine: an operation is complete before the next starts (rules R3 and R56). -/
def step (s : State) : Host.Outcome State Fault Refusal :=
  match fetch s with
  | .run i s' => exec i s'
  | .quiet s' => .next s'

/-- The state with a word of the opcode table as the next request served; it stands for the environment's request
(log entry 5). -/
def State.withFetchWord (s : State) (nbits w : Nat) : State :=
  s.placeWord nbits w

end Sys2Proof.Machine
end

