-- ==== Sys2Proof/Safety.lean ====
section
/-! DEFINITION. The terms the claims use: which registers two states share, the invariant of the machine, which frames
are accepted, what correct rounding is, and which outcomes a control tick may have. -/

namespace Sys2Proof.Machine

/-! Registers. -/

/-- The five gain-and-limit registers of a record (rule R28). -/
def PidState.gains (r : PidState) : Gains :=
  { kp := r.kp, ki := r.ki, kd := r.kd, ioutMax := r.ioutMax, outMax := r.outMax }

/-- Two states hold the same architectural registers, the fifteen kinds of rule R20. -/
abbrev State.sameRegisters (s t : State) : Prop :=
  s.fb = t.fb ∧ s.vel = t.vel ∧ s.pose = t.pose ∧ s.ori = t.ori ∧ s.cmd = t.cmd ∧ s.pid = t.pid ∧
    s.running = t.running ∧ s.initialized = t.initialized

/-- Every register of a record is finite: what rules R165 and R249 ask of the suppliers. -/
def PidState.finite (r : PidState) : Bool :=
  isFinite r.kp && isFinite r.ki && isFinite r.kd && isFinite r.ioutMax && isFinite r.outMax &&
    isFinite r.integralAccum && isFinite r.lastError && isFinite r.lastOutput

/-- The premise of rule R165 and U1 for a control tick: every target and every PID register finite. -/
abbrev State.finiteInputs (s : State) (tgt : Vector F32 3) : Prop :=
  (∀ k : Fin 3, isFinite tgt[k] = true) ∧ ∀ a : Fin 7, s.pid[a].finite = true

/-- The operations a request can ask for through a port (rules R40 to R44 and R87). -/
def isPortOperation : Instr → Bool
  | .init => true
  | .rxFrame _ => true
  | .ctrlTick _ _ => true
  | .tlmTick _ _ => true
  | .opReserved _ => true
  | .reset => true
  | .fldI16 _ _ _ => false
  | .fldU16 _ _ _ => false
  | .fldI32 _ _ _ => false
  | .fldU32 _ _ _ => false
  | .fldF32 _ _ _ => false
  | .fldU8 _ _ _ => false
  | .fldInvalid _ => false
  | .cmdFrame _ => false
  | .tlmFrame _ _ => false
  | .xor8 _ _ _ => false
  | .width _ => false
  | .fldDecode _ _ _ => false
  | .cmdDecode _ => false
  | .commit _ => false
  | .tlmEncode => false
  | .clamp _ _ _ => false
  | .pidTick _ _ _ => false
  | .i2f _ => false
  | .f2i _ => false
  | .tdiv _ _ => false
  | .mixFwd _ => false
  | .mixInv _ => false

/-- The field rows of the opcode table (rules R103 to R109). -/
def isFieldRow : Instr → Bool
  | .fldI16 _ _ _ => true
  | .fldU16 _ _ _ => true
  | .fldI32 _ _ _ => true
  | .fldU32 _ _ _ => true
  | .fldF32 _ _ _ => true
  | .fldU8 _ _ _ => true
  | .fldInvalid _ => true
  | .cmdFrame _ => false
  | .tlmFrame _ _ => false
  | .init => false
  | .rxFrame _ => false
  | .ctrlTick _ _ => false
  | .tlmTick _ _ => false
  | .opReserved _ => false
  | .reset => false
  | .xor8 _ _ _ => false
  | .width _ => false
  | .fldDecode _ _ _ => false
  | .cmdDecode _ => false
  | .commit _ => false
  | .tlmEncode => false
  | .clamp _ _ _ => false
  | .pidTick _ _ _ => false
  | .i2f _ => false
  | .f2i _ => false
  | .tdiv _ _ => false
  | .mixFwd _ => false
  | .mixInv _ => false

/-- A value that passes its bound test lies inside the receive buffer (rules R35 and R102, log entry 17). -/
def fieldInside (o lim : Nat) (ty : FieldType) : Bool :=
  decide (lim < o + widthOf ty) || decide (o + widthOf ty ≤ Config.rxCap)

/-- The operation names no byte outside a buffer (rules R35 and R61): what rules out a stop, well-formed or not (log entries 16
and 17). -/
def staysInside : Instr → Bool
  | .fldI16 o lim _ => fieldInside o lim .int16
  | .fldU16 o lim _ => fieldInside o lim .uint16
  | .fldI32 o lim _ => fieldInside o lim .int32
  | .fldU32 o lim _ => fieldInside o lim .uint32
  | .fldF32 o lim _ => fieldInside o lim .float32
  | .fldU8 o lim _ => fieldInside o lim .uint8
  | .fldDecode o tag lim => (fieldTypeOf tag).all (fieldInside o lim)
  | .xor8 b lo hi => decide (hi ≤ lo) || decide (hi ≤ b.capacity)
  | .cmdDecode len => decide (len ≤ Config.rxCap)
  | .rxFrame frame => decide (frame.length ≤ Config.rxCap)
  | .fldInvalid _ => true
  | .cmdFrame _ => true
  | .tlmFrame _ _ => true
  | .init => true
  | .ctrlTick _ _ => true
  | .tlmTick _ _ => true
  | .opReserved _ => true
  | .reset => true
  | .width _ => true
  | .commit _ => true
  | .tlmEncode => true
  | .clamp _ _ _ => true
  | .pidTick _ _ _ => true
  | .i2f _ => true
  | .f2i _ => true
  | .tdiv _ _ => true
  | .mixFwd _ => true
  | .mixInv _ => true

/-! The invariant. -/

/-- All axes of a group hold equal gains and limits (rule R28). -/
abbrev groupsShareGains (f : Vector PidState 7) : Prop :=
  f[1].gains = f[0].gains ∧ f[2].gains = f[0].gains ∧
    f[4].gains = f[3].gains ∧ f[5].gains = f[3].gains ∧ f[6].gains = f[3].gains

/-- Both buffers are in canonical form inside their capacity, the link layer holds no more than the buffer does
(rule R61) and nothing of an overflowed frame, and the axes of a group share their gains (rule R28). -/
abbrev State.Inv (s : State) : Prop :=
  s.rx.wf Config.rxCap = true ∧ s.tx.wf Config.tlmLen = true ∧ s.link.fill.length ≤ Config.rxCap ∧
    (s.link.overflow = true → s.link.fill = []) ∧ groupsShareGains s.pid

/-! Frames. -/

/-- The conditions of rule R131 under which a command frame is accepted (`CHECK_TRAILER` as in Config). -/
abbrev Accepted (b : List Byte) : Prop :=
  b.length = 55 ∧ byteAt b 0 = 0xAA ∧ byteAt b 1 = 0x55 ∧ byteAt b 2 = 0x0A ∧
    (∀ i : Fin 10, byteAt b (3 + 5 * i) = 0x04) ∧ byteAt b 53 = xor8 b 0 53 ∧
    (Config.checkTrailer = true → byteAt b 54 = 0x5D)

/-- The gain set of an accepted frame: field `i` has its value at offsets `4 + 5i` to `7 + 5i` (rule R84). -/
def frameGains (b : List Byte) : GainSet :=
  #v[memRead4 b 4, memRead4 b 9, memRead4 b 14, memRead4 b 19, memRead4 b 24,
    memRead4 b 29, memRead4 b 34, memRead4 b 39, memRead4 b 44, memRead4 b 49]

/-- The framing test of rule R121 passes. -/
abbrev Framed (b : List Byte) : Prop :=
  5 ≤ b.length ∧ byteAt b 0 = 0xAA ∧ byteAt b 1 = 0x55 ∧
    (Config.checkTrailer = true → byteAt b (b.length - 1) = 0x5D)

/-- The checksum test of rule R122 passes. -/
abbrev Checksummed (b : List Byte) : Prop :=
  xor8 b 0 (b.length - 2) = byteAt b (b.length - 2)

/-- A field on the wire: the tag of its type, then as many bytes of `v` as the type is wide, low byte first
(rules R73 and R74). -/
def wireField (f : FieldType × BitVec 32) : List Byte :=
  tagOf f.1 :: (le32 f.2).take (widthOf f.1)

/-- A sealed frame that declares `count` fields and carries the fields `fs` and then the bytes `tail` (rule R70). -/
def wireFrame (count : Byte) (fs : List (FieldType × BitVec 32)) (tail : List Byte) : List Byte :=
  sealFrame (0xAA :: 0x55 :: count :: (fs.flatMap wireField ++ tail))

/-- The bytes of a telemetry frame, offset by offset (rule R80): the header, the flag, the thirteen slots low byte first,
the exclusive-or of bytes 0 to 29, the trailer. -/
def TelemetryBytes (running : Bool) (cmd : Vector I32 4) (vel pose ori : Vector I32 3) (m : Memory) : Prop :=
  m.read 0 = 0xAA ∧ m.read 1 = 0x55 ∧ m.read 2 = 0x20 ∧ m.read 3 = (if running = true then 0x01 else 0x00) ∧
    (∀ j : Fin 4, m.read (4 + 2 * j) = cmd[j].extractLsb' 0 8 ∧ m.read (5 + 2 * j) = cmd[j].extractLsb' 8 8) ∧
    (∀ k : Fin 3, m.read (12 + 2 * k) = vel[k].extractLsb' 0 8 ∧ m.read (13 + 2 * k) = vel[k].extractLsb' 8 8) ∧
    (∀ k : Fin 3, m.read (18 + 2 * k) = pose[k].extractLsb' 0 8 ∧ m.read (19 + 2 * k) = pose[k].extractLsb' 8 8) ∧
    (∀ k : Fin 3, m.read (24 + 2 * k) = ori[k].extractLsb' 0 8 ∧ m.read (25 + 2 * k) = ori[k].extractLsb' 8 8) ∧
    m.read 30 = (List.range 30).foldl (fun r i => r ^^^ m.read i) 0 ∧ m.read 31 = 0x5D

/-! Rounding. -/

/-- `r` is nearest to the exact value `z` units of `2^-(149+c)` among the finite binary32 values, and where another is
as near its fraction is even (rules R156, R157 and R180). -/
def NearestEven (z : Int) (c : Nat) (r : F32) : Prop :=
  ∀ y : F32, isFinite y = true →
    |z - fvalue r * 2 ^ c| ≤ |z - fvalue y * 2 ^ c| ∧
      (|z - fvalue r * 2 ^ c| = |z - fvalue y * 2 ^ c| → fvalue y ≠ fvalue r → ffrac r % 2 = 0)

/-- From this magnitude on (half a spacing above the largest finite value) a value rounds to an infinity. -/
def overflowUnits (c : Nat) : Nat :=
  (2 ^ 25 - 1) * 2 ^ (252 + c)

/-- `r` is the exact value `z` units of `2^-(149+c)` rounded once to binary32, to nearest, ties to even, an infinity of
the right sign on overflow (rules R156 and R157). -/
def Rounded (z : Int) (c : Nat) (r : F32) : Prop :=
  (z.natAbs < overflowUnits c → isFinite r = true ∧ NearestEven z c r) ∧
    (overflowUnits c ≤ z.natAbs → r = finf (decide (z < 0)))

/-! Control ticks. -/

/-- What may land inside a control tick (rules R56 and R57). -/
def landingAllowed : CommitGranularity → Landing → Prop
  | .operation, l => l = noLanding
  | .pidTick, _ => True

/-- The outcomes a control tick may have under a granularity (rule R57): a claim for every implementation the source
allows quantifies over the outcomes of `pidTick`. Before INIT every landing gives the same outcome (log entry 27). -/
def TickOutcome (gr : CommitGranularity) (fbIn : Vector I32 4) (tgt : Vector F32 3) (s t : State) : Prop :=
  ∃ l : Landing, landingAllowed gr l ∧ t = controlTickLanding l fbIn tgt s

/-- The waiting requests by which a link layer delivers a frame: its bytes, then frame complete (rules R37 and R219). -/
def deliver (bs : List Byte) (rest : List Request) : List Request :=
  bs.map .rxByte ++ .rxComplete :: rest

end Sys2Proof.Machine
end

