-- ==== Sys2Proof/Certificates/Slice0/Obligations.lean ====
section
/-! DEFINITION. The statements for the provers. Each docstring names the rule of spec/ it formalises, or says that a
clause is the model's own and names its log entry. -/

open Sys2Proof Sys2Proof.Machine

/-! The step, decoding and encoding. -/

/-- One step serves the first waiting request (20_memory.md section 5, 60_exceptions.md section 4). The list of waiting
requests and its order are the model's (log entries 1 and 5), so is that a word of any code space can be requested (6) and
that the bytes after the inputs are not looked at (3). A command frame of another form than the accepted one gives its decode
error, a field without all its bytes Truncated (41_frame_decoder.md section 1, 60_exceptions.md section 1); that other bytes
which encode nothing are ignored is the model's (23), and so are the mark of an overflowed frame (15) and the link layer's fill
apart from the receive buffer, empty after the hand-off (26). -/
def Obligations.StepServesTheFirstRequest : Prop :=
  ∀ (s : State) (rest : List Request),
    (s.pending = [] → step s = .next s) ∧
    (s.pending = .rst :: rest → step s = exec .reset { s with pending := rest }) ∧
    (∀ sp bs tail i, s.pending = .word sp bs :: rest → decode sp bs = .ok (i, tail) →
      step s = exec i { s with pending := rest }) ∧
    (∀ bs e, s.pending = .word .command bs :: rest → decodeCommandFrame true bs = .error e →
      step s = .next { s with pending := rest, out := .failed e }) ∧
    (∀ o lim bs why, s.pending = .word (.field o lim) bs :: rest → decode (.field o lim) bs = .error why →
      step s = .next { s with pending := rest, out := .failed .truncated }) ∧
    (∀ sp bs why, sp = .op ∨ sp = .telemetry → s.pending = .word sp bs :: rest → decode sp bs = .error why →
      step s = .next { s with pending := rest, out := .none }) ∧
    (∀ b, s.pending = .rxByte b :: rest →
      step s = .next { s with pending := rest, link := s.link.arrive b }) ∧
    (s.pending = .rxComplete :: rest → s.link.overflow = false →
      step s = exec (.rxFrame s.link.fill) { s with pending := rest, link := ⟨[], false⟩ }) ∧
    (s.pending = .rxComplete :: rest → s.link.overflow = true →
      step s = .next { s with pending := rest, link := ⟨[], false⟩ })

/-- Words written out from the encodings of 30_encoding.md decode to what they stand for. -/
def Obligations.WrittenOutWordsDecode : Prop :=
  decode (.field 4 53) [0x00, 0xC0, 0x63] = .ok (.fldI16 4 53 25536, []) ∧
  decode (.field 4 53) [0x01, 0x40, 0x9C] = .ok (.fldU16 4 53 40000, []) ∧
  decode (.field 4 53) [0x02, 0x40, 0x9C, 0x00, 0x00] = .ok (.fldI32 4 53 40000, []) ∧
  decode (.field 4 53) [0x03, 0x78, 0x56, 0x34, 0x12] = .ok (.fldU32 4 53 0x12345678, []) ∧
  decode (.field 4 53) [0x04, 0x00, 0x00, 0xFA, 0x43] = .ok (.fldF32 4 53 0x43FA0000, []) ∧
  decode (.field 4 53) [0x05, 0x2A] = .ok (.fldU8 4 53 42, []) ∧
  decode (.field 4 53) [0x84] = .ok (.fldInvalid 0x84, []) ∧
  decode .op [0x01] = .ok (.init, []) ∧
  decode .op [0x05] = .ok (.opReserved 5, [])

/-- Every field row is read back from its encoding, whatever follows it (30_encoding.md section 1): no bit of a value is
dropped. -/
def Obligations.FieldRowsDecodeFromTheirEncoding : Prop :=
  ∀ (i : Instr) (sp : Space) (bs rest : List Byte), isFieldRow i = true → i.wellFormed = true →
    encode i = some (sp, bs) → decode sp (bs ++ rest) = .ok (i, rest)

/-- Every port request is read back from its encoding, whatever follows it (30_encoding.md section 4). The layout of the
inputs after the selector is the model's (log entry 2). -/
def Obligations.PortRequestsDecodeFromTheirEncoding : Prop :=
  ∀ (i : Instr) (sp : Space) (bs rest : List Byte), isPortOperation i = true → i.wellFormed = true →
    encode i = some (sp, bs) → decode sp (bs ++ rest) = .ok (i, rest)

/-- Both frames are read back from their encodings: all forty value bytes of a command frame, the flag and the thirteen
slots of a telemetry frame (30_encoding.md sections 1 and 3). -/
def Obligations.FramesDecodeFromTheirEncoding : Prop :=
  (∀ g : GainSet, ∃ bs, encode (.cmdFrame g) = some (.command, bs) ∧ bs.length = 55 ∧
    decode .command bs = .ok (.cmdFrame g, [])) ∧
  ∀ (running : Bool) (slots : Vector Slot 13), ∃ bs, encode (.tlmFrame running slots) = some (.telemetry, bs) ∧
    bs.length = 32 ∧ decode .telemetry bs = .ok (.tlmFrame running slots, [])

/-- A field, a port request, a command frame or a telemetry frame that decodes is the encoding of what it decodes to, followed
by what is left, and a frame leaves nothing: each word has one meaning (30_encoding.md sections 1 to 4). The layout of a
request's inputs (log entry 2), the zeros above its selector (3) and the reading of a telemetry frame (25) are the model's. -/
def Obligations.DecodedWordsAreEncodings : Prop :=
  ∀ (sp : Space) (bs rest : List Byte) (i : Instr), decode sp bs = .ok (i, rest) →
    (∃ sp' pre, encode i = some (sp', pre) ∧ bs = pre ++ rest) ∧ (sp = .command ∨ sp = .telemetry → rest = [])

/-! FieldCodec. -/

/-- XOR8: an empty range gives 0x00, and a range one byte longer gives the exclusive-or with that byte. -/
def Obligations.XorOfLongerRange : Prop :=
  ∀ (s : State) (b : Buf) (lo hi : Nat), lo ≤ hi → hi ≤ b.capacity →
    exec (.xor8 b lo lo) s = .next { s with out := .byte 0 } ∧
    ∃ x, exec (.xor8 b lo hi) s = .next { s with out := .byte x } ∧
      (hi < b.capacity →
        exec (.xor8 b lo (hi + 1)) s = .next { s with
          out := .byte (x ^^^ (match b with | .rx => s.rx | .tx => s.tx).read hi) })

/-- WIDTH of every tag byte. -/
def Obligations.WidthOfEveryTag : Prop :=
  ∀ (s : State) (tag : Byte),
    exec (.width tag) s = .next { s with
      out := .width (if tag.toNat ≤ 1 then some 2 else if tag.toNat ≤ 4 then some 4
        else if tag.toNat = 5 then some 1 else none) }

/-- The values of UInt16, Int32, UInt32 and UInt8 fields from their bytes, lowest first, and the bound. -/
def Obligations.IntegerFieldValues : Prop :=
  ∀ (s : State) (o lim : Nat) (b0 b1 b2 b3 : Byte), 1 ≤ o → lim + 2 ≤ 55 →
    exec (.fldU16 o lim (b1 ++ b0)) s = .next { s with
      out := if o + 2 ≤ lim then .field (.uint16 (b0.toNat + 256 * b1.toNat)) (o + 2) else .failed .truncated } ∧
    exec (.fldU32 o lim (b3 ++ b2 ++ b1 ++ b0)) s = .next { s with
      out := if o + 4 ≤ lim then
          .field (.uint32 (b0.toNat + 256 * b1.toNat + 65536 * b2.toNat + 16777216 * b3.toNat)) (o + 4)
        else .failed .truncated } ∧
    exec (.fldI32 o lim (b3 ++ b2 ++ b1 ++ b0)) s = .next { s with
      out := if o + 4 ≤ lim then
          .field (.int32 (b0.toNat + 256 * b1.toNat + 65536 * b2.toNat + 16777216 * b3.toNat
            - if 128 ≤ b3.toNat then 4294967296 else 0)) (o + 4)
        else .failed .truncated } ∧
    exec (.fldU8 o lim b0) s = .next { s with
      out := if o + 1 ≤ lim then .field (.uint8 b0.toNat) (o + 1) else .failed .truncated }

/-- An Int16 field is sign-extended from its two bytes, a Float32 field keeps its four bytes bit for bit
(40_field_codec.md section 2), and an unknown tag raises UnknownFieldType. -/
def Obligations.SignedAndFloatFieldValues : Prop :=
  ∀ (s : State) (o lim : Nat) (b0 b1 b2 b3 tag : Byte), 1 ≤ o → lim + 2 ≤ 55 → 6 ≤ tag.toNat →
    exec (.fldI16 o lim (b1 ++ b0)) s = .next { s with
      out := if o + 2 ≤ lim then
          .field (.int16 (b0.toNat + 256 * b1.toNat - if 128 ≤ b1.toNat then 65536 else 0)) (o + 2)
        else .failed .truncated } ∧
    exec (.fldF32 o lim (b3 ++ b2 ++ b1 ++ b0)) s = .next { s with
      out := if o + 4 ≤ lim then .field (.float32 (b3 ++ b2 ++ b1 ++ b0)) (o + 4) else .failed .truncated } ∧
    exec (.fldInvalid tag) s = .next { s with out := .failed .unknownFieldType }

/-- FLD_DECODE reads the value bytes at `o` from the receive buffer and acts as the row of its tag; an unknown tag is
UnknownFieldType before any bound is looked at (40_field_codec.md sections 1 and 2). -/
def Obligations.FieldDecodeActsAsItsRow : Prop :=
  ∀ (s : State) (o lim : Nat) (tag : Byte), 1 ≤ o → lim + 2 ≤ 55 →
    exec (.fldDecode o 0x00 lim) s = exec (.fldI16 o lim (s.rx.read (o + 1) ++ s.rx.read o)) s ∧
    exec (.fldDecode o 0x01 lim) s = exec (.fldU16 o lim (s.rx.read (o + 1) ++ s.rx.read o)) s ∧
    exec (.fldDecode o 0x02 lim) s = exec (.fldI32 o lim
      (s.rx.read (o + 3) ++ s.rx.read (o + 2) ++ s.rx.read (o + 1) ++ s.rx.read o)) s ∧
    exec (.fldDecode o 0x03 lim) s = exec (.fldU32 o lim
      (s.rx.read (o + 3) ++ s.rx.read (o + 2) ++ s.rx.read (o + 1) ++ s.rx.read o)) s ∧
    exec (.fldDecode o 0x04 lim) s = exec (.fldF32 o lim
      (s.rx.read (o + 3) ++ s.rx.read (o + 2) ++ s.rx.read (o + 1) ++ s.rx.read o)) s ∧
    exec (.fldDecode o 0x05 lim) s = exec (.fldU8 o lim (s.rx.read o)) s ∧
    (6 ≤ tag.toNat → exec (.fldDecode o tag lim) s = .next { s with out := .failed .unknownFieldType })

/-! FrameDecoder. -/

/-- A command frame is accepted if and only if it meets the conditions of rule R131; its value bytes are free. -/
def Obligations.FrameAcceptedIffConditions : Prop :=
  ∀ (s : State) (b : List Byte), s.rx.wf 55 = true → b.length ≤ 55 →
    ∃ t, exec (.rxFrame b) s = .next t ∧ (t.out = .status .ok ↔ Accepted b)

/-- The commit of an accepted frame: each record of the position group takes fields 0 to 4, each of the velocity group
fields 5 to 9, bit for bit, `running` is set, and nothing else changes but the receive buffer's bytes of the frame and
the status (41_frame_decoder.md section 2). That the bytes above the frame keep what they held is the model's (log entry
22). -/
def Obligations.AcceptedFrameCommits : Prop :=
  ∀ (s : State) (b : List Byte), s.rx.wf 55 = true → Accepted b →
    ∃ t, exec (.rxFrame b) s = .next t ∧
      (∀ a : Fin 7, t.pid[a] =
        if (a : Nat) < 3 then
          { s.pid[a] with
            kp := memRead4 b 4, ki := memRead4 b 9, kd := memRead4 b 14
            ioutMax := memRead4 b 19, outMax := memRead4 b 24 }
        else
          { s.pid[a] with
            kp := memRead4 b 29, ki := memRead4 b 34, kd := memRead4 b 39
            ioutMax := memRead4 b 44, outMax := memRead4 b 49 }) ∧
      (∀ x, t.rx.read x = if x < b.length then byteAt b x else s.rx.read x) ∧
      t = { s with pid := t.pid, running := true, rx := t.rx, out := .status .ok }

/-- A frame that is not accepted is reported with one of the five errors and changes no register. -/
def Obligations.RejectedFrameChangesNoRegister : Prop :=
  ∀ (s : State) (b : List Byte), s.rx.wf 55 = true → b.length ≤ 55 → ¬ Accepted b →
    ∃ e t, exec (.rxFrame b) s = .next t ∧ t.out = .status (.err e) ∧ s.sameRegisters t ∧
      t = { s with rx := t.rx, out := t.out }

/-- The framing test comes first and reports BadHeader, the checksum test second and reports ChecksumMismatch, whatever
the rest of the frame holds (60_exceptions.md sections 1 and 3). For every frame: its bytes stand in the receive buffer; that
the bytes above keep what they held is the model's (log entry 22). -/
def Obligations.FramingThenChecksum : Prop :=
  ∀ (s : State) (b : List Byte), s.rx.wf 55 = true → b.length ≤ 55 →
    ∃ t, exec (.rxFrame b) s = .next t ∧
      (∀ x, t.rx.read x = if x < b.length then byteAt b x else s.rx.read x) ∧
      (¬ Framed b → t.out = .status (.err .badHeader)) ∧
      (Framed b → ¬ Checksummed b → t.out = .status (.err .checksumMismatch))

/-- A change of one byte of an accepted frame from the count to the checksum is always a ChecksumMismatch, before the
changed byte is interpreted, and changes no register (41_frame_decoder.md section 1, 95_test_vectors.md S3). -/
def Obligations.AlteredByteIsChecksumMismatch : Prop :=
  ∀ (s : State) (b : List Byte) (i : Nat) (m : Byte), s.rx.wf 55 = true → Accepted b → 2 ≤ i → i ≤ 53 → m ≠ 0 →
    ∃ t, exec (.rxFrame (b.set i (byteAt b i ^^^ m))) s = .next t ∧
      t.out = .status (.err .checksumMismatch) ∧ s.sameRegisters t

/-- The verdict on every frame whose framing and checksum are right, by what stands in its field region: `fs` complete
fields and then `tail`. All declared fields read and nothing left: Ok for ten Float32 fields, else MalformedPayload;
bytes left over: MalformedPayload; a declared field without room for its tag or for its value: Truncated; a declared
field with an unknown tag: UnknownFieldType (41_frame_decoder.md section 1, 60_exceptions.md section 1). -/
def Obligations.WalkVerdicts : Prop :=
  ∀ (s : State) (count : Byte) (fs : List (FieldType × BitVec 32)) (tail : List Byte), s.rx.wf 55 = true →
    (wireFrame count fs tail).length ≤ 55 →
    ∃ t st, exec (.rxFrame (wireFrame count fs tail)) s = .next t ∧ t.out = .status st ∧
      (count.toNat = fs.length → tail = [] →
        st = if fs.length = 10 ∧ ∀ f ∈ fs, f.1 = .float32 then .ok else .err .malformedPayload) ∧
      (count.toNat = fs.length → tail ≠ [] → st = .err .malformedPayload) ∧
      (fs.length < count.toNat → tail = [] → st = .err .truncated) ∧
      (∀ tag v ty, fs.length < count.toNat → tail = tag :: v → fieldTypeOf tag = some ty → v.length < widthOf ty →
        st = .err .truncated) ∧
      (∀ tag v, fs.length < count.toNat → tail = tag :: v → 6 ≤ tag.toNat → st = .err .unknownFieldType)

/-- CMD_DECODE gives exactly one result for every frame in the receive buffer and writes nothing: the ten values of an
accepted frame in positional order, or an error (41_frame_decoder.md section 1). -/
def Obligations.CommandDecodeIsTotal : Prop :=
  ∀ (s : State) (len : Nat), len ≤ 55 →
    ∃ r, exec (.cmdDecode len) s = .next { s with out := r } ∧
      (Accepted (s.rx.slice 0 len) → r = .gains (frameGains (s.rx.slice 0 len))) ∧
      (¬ Accepted (s.rx.slice 0 len) → ∃ e, r = .failed e)

/-- The accepted form of a command frame decodes to its ten values and changes nothing (30_encoding.md section 2). That
the row CMDFRAME is CMD_DECODE of its own bytes is the model's reading (log entry 6). -/
def Obligations.AcceptedFormDecodesToItsGains : Prop :=
  ∀ (s : State) (g : GainSet), exec (.cmdFrame g) s = .next { s with out := .gains g }

/-- COMMIT writes the gains and limits of all seven records and `running`, and nothing else. -/
def Obligations.CommitWritesAllSevenRecords : Prop :=
  ∀ (s : State) (g : GainSet), ∃ t, exec (.commit g) s = .next t ∧
    (∀ a : Fin 7, t.pid[a] =
      if (a : Nat) < 3 then
        { s.pid[a] with kp := g[0], ki := g[1], kd := g[2], ioutMax := g[3], outMax := g[4] }
      else
        { s.pid[a] with kp := g[5], ki := g[6], kd := g[7], ioutMax := g[8], outMax := g[9] }) ∧
    t = { s with pid := t.pid, running := true, out := .none }

/-! FrameEncoder. -/

/-- TLM_TICK takes the sensor snapshot, writes the 32 bytes of the frame from the registers with the values just written,
and hands them over; nothing else changes (42_frame_encoder.md sections 1 and 2). -/
def Obligations.TelemetryTickSendsTheRegisters : Prop :=
  ∀ (s : State) (poseIn oriIn : Vector I32 3), s.tx.wf 32 = true →
    ∃ t, exec (.tlmTick poseIn oriIn) s = .next t ∧
      TelemetryBytes s.running s.cmd s.vel poseIn oriIn t.tx ∧
      t.out = .sent ((List.range 32).map t.tx.read) ∧
      (∀ x, 32 ≤ x → t.tx.read x = s.tx.read x) ∧
      t = { s with pose := poseIn, ori := oriIn, tx := t.tx, out := t.out }

/-- TLM_ENCODE writes the 32 bytes of the frame from the registers into the transmit buffer and changes nothing else. -/
def Obligations.TelemetryEncodeWritesTheFrame : Prop :=
  ∀ s : State, s.tx.wf 32 = true →
    ∃ t, exec .tlmEncode s = .next t ∧
      TelemetryBytes s.running s.cmd s.vel s.pose s.ori t.tx ∧
      t.out = .frame ((List.range 32).map t.tx.read) ∧
      (∀ x, 32 ≤ x → t.tx.read x = s.tx.read x) ∧
      t = { s with tx := t.tx, out := t.out }

/-- The row TLMFRAME assembles a frame that is read back as the same flag and slots, and changes the transmit buffer
alone (30_encoding.md section 3). That the row assembles its own frame is the model's reading (log entry 6). -/
def Obligations.TelemetryRowAssemblesItsFrame : Prop :=
  ∀ (s : State) (running : Bool) (slots : Vector Slot 13), s.tx.wf 32 = true →
    ∃ t bs, exec (.tlmFrame running slots) s = .next t ∧ t.out = .frame bs ∧
      bs = (List.range 32).map t.tx.read ∧
      decode .telemetry bs = .ok (.tlmFrame running slots, []) ∧
      (∀ x, 32 ≤ x → t.tx.read x = s.tx.read x) ∧
      t = { s with tx := t.tx, out := t.out }

/-- The checksum round trip: XOR8 over bytes 0 to 29 of any encoded frame is byte 30, and over bytes 0 to 30 it is zero. -/
def Obligations.TelemetryChecksumRoundTrip : Prop :=
  ∀ s : State, s.tx.wf 32 = true →
    ∃ t, exec .tlmEncode s = .next t ∧
      exec (.xor8 .tx 0 30) t = .next { t with out := .byte (t.tx.read 30) } ∧
      exec (.xor8 .tx 0 31) t = .next { t with out := .byte 0 }

/-- Each of the thirteen telemetry slots read back as a 16-bit integer is the register's value wrapped into
-32768 .. 32767, not saturated (42_frame_encoder.md section 1). -/
def Obligations.TelemetrySlotsWrap : Prop :=
  ∀ (s : State) (poseIn oriIn : Vector I32 3), s.tx.wf 32 = true →
    ∃ t, exec (.tlmTick poseIn oriIn) s = .next t ∧
      (∀ j : Fin 4, (t.tx.read (5 + 2 * j) ++ t.tx.read (4 + 2 * j) : BitVec 16).toInt
        = (s.cmd[j].toInt + 32768) % 65536 - 32768) ∧
      (∀ k : Fin 3, (t.tx.read (13 + 2 * k) ++ t.tx.read (12 + 2 * k) : BitVec 16).toInt
        = (s.vel[k].toInt + 32768) % 65536 - 32768) ∧
      (∀ k : Fin 3, (t.tx.read (19 + 2 * k) ++ t.tx.read (18 + 2 * k) : BitVec 16).toInt
        = (poseIn[k].toInt + 32768) % 65536 - 32768) ∧
      ∀ k : Fin 3, (t.tx.read (25 + 2 * k) ++ t.tx.read (24 + 2 * k) : BitVec 16).toInt
        = (oriIn[k].toInt + 32768) % 65536 - 32768

/-- The telemetry frame has no memory: a second telemetry tick with the same inputs sends the same bytes and changes
nothing (42_frame_encoder.md section 2). -/
def Obligations.TelemetryHasNoMemory : Prop :=
  ∀ (s : State) (poseIn oriIn : Vector I32 3), s.tx.wf 32 = true →
    ∃ t, exec (.tlmTick poseIn oriIn) s = .next t ∧
      ∃ u, exec (.tlmTick poseIn oriIn) t = .next u ∧ u.out = t.out ∧ t.sameRegisters u

/-! Lifecycle. -/

/-- INIT sets `initialized` and writes nothing else; a second INIT changes nothing. -/
def Obligations.InitGrantsControl : Prop :=
  ∀ s : State, exec .init s = .next { s with initialized := true, out := .none } ∧
    exec .init { s with initialized := true, out := .none } = .next { s with initialized := true, out := .none }

/-- RESET puts every register at its reset value. That buffers, link layer, waiting requests and draws stay is the
model's reading (log entry 14). -/
def Obligations.ResetWritesEveryRegister : Prop :=
  ∀ s : State, ∃ t, exec .reset s = .next t ∧ t.sameRegisters State.reset ∧
    t.rx = s.rx ∧ t.tx = s.tx ∧ t.link = s.link ∧ t.pending = s.pending ∧ t.draws = s.draws ∧ t.out = .none

/-- The registers right after reset hold the values of rule R36. -/
def Obligations.ResetValues : Prop :=
  State.reset.fb = #v[0, 0, 0, 0] ∧ State.reset.vel = #v[0, 0, 0] ∧ State.reset.pose = #v[0, 0, 0] ∧
    State.reset.ori = #v[0, 0, 0] ∧ State.reset.cmd = #v[0, 0, 0, 0] ∧
    (∀ a : Fin 7, State.reset.pid[a] =
      { kp := 0x3F800000, ki := 0x3F800000, kd := 0x3F800000, ioutMax := 0x43FA0000, outMax := 0x44FA0000
        integralAccum := 0x00000000, lastError := 0x00000000, lastOutput := 0x00000000 }) ∧
    State.reset.running = false ∧ State.reset.initialized = false

/-- A request with a reserved `op` value changes no state and produces no output. -/
def Obligations.ReservedOpIsIgnored : Prop :=
  ∀ (s : State) (op : BitVec 3), op = 0 ∨ op = 5 ∨ op = 6 ∨ op = 7 →
    exec (.opReserved op) s = .next { s with out := .none }

/-- The two flags are one-way: no step clears `running` or `initialized` but one that serves the input `rst`
(10_state.md section 5). -/
def Obligations.FlagsAreClearedByResetAlone : Prop :=
  ∀ s t : State, step s = .next t → (∀ rest, s.pending ≠ .rst :: rest) →
    (s.running = true → t.running = true) ∧ (s.initialized = true → t.initialized = true)

/-! Binary32. -/

/-- CLAMP: which of its three results it gives, and the bounds that follow. -/
def Obligations.ClampBoundsItsOperand : Prop :=
  ∀ (s : State) (x lo hi : F32), ∃ y, exec (.clamp x lo hi) s = .next { s with out := .float y } ∧
    (fgt x hi = true → y = hi) ∧
    (fgt x hi = false → flt x lo = true → y = lo) ∧
    (fgt x hi = false → flt x lo = false → y = x) ∧
    (isNaN x = true → y = x) ∧
    (isNaN x = false → fle lo hi = true → fle lo y = true ∧ fle y hi = true) ∧
    (isNaN x = false → flt hi lo = true → y = (if fgt x hi = true then hi else lo))

/-- `fadd` and `fsub` of finite operands: the exact sum or difference rounded once, and `x - x = +0.0`. -/
def Obligations.AdditionRoundsOnce : Prop :=
  ∀ (n : Nat) (a b : F32), isFinite a = true → isFinite b = true →
    Rounded (fvalue a + fvalue b) 0 (fadd n a b) ∧
    Rounded (fvalue a - fvalue b) 0 (fsub n a b) ∧
    fsub n a b = fadd n a (fneg b) ∧ fsub n a a = 0x00000000

/-- `fmul` of finite operands: the exact product rounded once, its sign the exclusive-or of the operands' signs. -/
def Obligations.MultiplicationRoundsOnce : Prop :=
  ∀ (n : Nat) (a b : F32), isFinite a = true → isFinite b = true →
    Rounded (fvalue a * fvalue b) 149 (fmul n a b) ∧ fsign (fmul n a b) = (fsign a != fsign b)

/-- An operation with a NaN operand, the difference of two infinities and zero times an infinity give a quiet NaN,
whatever the free draw is (43_pid.md section 1). -/
def Obligations.InvalidOperationsGiveQuietNaNs : Prop :=
  ∀ (n : Nat) (a b : F32),
    (isNaN a = true ∨ isNaN b = true →
      isQuietNaN (fadd n a b) = true ∧ isQuietNaN (fsub n a b) = true ∧ isQuietNaN (fmul n a b) = true) ∧
    (isInf a = true → isInf b = true → fsign a = fsign b → isQuietNaN (fsub n a b) = true) ∧
    (isInf a = true → isInf b = true → fsign a ≠ fsign b → isQuietNaN (fadd n a b) = true) ∧
    (isInf a = true → isFinite b = true → fvalue b = 0 →
      isQuietNaN (fmul n a b) = true ∧ isQuietNaN (fmul n b a) = true)

/-- I2F gives the nearest binary32 value, ties to even, exact up to `2^24` in magnitude. -/
def Obligations.IntToFloatIsNearest : Prop :=
  ∀ (s : State) (i : I32), ∃ r, exec (.i2f i) s = .next { s with out := .float r } ∧
    isFinite r = true ∧ NearestEven (i.toInt * 2 ^ 149) 0 r ∧
    (i.toInt.natAbs ≤ 2 ^ 24 → fvalue r = i.toInt * 2 ^ 149) ∧ (i = 0 → r = 0x00000000)

/-- F2I discards the fraction of a finite value inside the range, and is the free function elsewhere; the free case cannot
arise on a number clamped by a finite, non-negative bound below `2^31`. -/
def Obligations.FloatToIntTruncates : Prop :=
  ∀ (s : State) (x : F32), ∃ i, exec (.f2i x) s = .next { s with out := .int i } ∧
    (isFinite x = true ∧ -2147483649 * 2 ^ 149 < fvalue x ∧ fvalue x < 2147483648 * 2 ^ 149 →
      i.toInt = (fvalue x).tdiv (2 ^ 149)) ∧
    (¬ (isFinite x = true ∧ -2147483649 * 2 ^ 149 < fvalue x ∧ fvalue x < 2147483648 * 2 ^ 149) →
      i = Config.f2iOutOfRange x) ∧
    ∀ m : F32, isNaN x = false → isFinite m = true → fle 0x00000000 m = true → fvalue m < 2147483648 * 2 ^ 149 →
      isFinite (fclamp x (fneg m) m) = true ∧ -2147483649 * 2 ^ 149 < fvalue (fclamp x (fneg m) m) ∧
        fvalue (fclamp x (fneg m) m) < 2147483648 * 2 ^ 149

/-! PIDController. -/

/-- PID_TICK: for every input the tick completes and writes the three dynamic registers of its axis alone; for finite
inputs (the domain rule R165 sets for every claim) their values are those of rule R161, each operation rounded on its
own, in the order of rule R162. The number of draws taken is the model's own (log entry 9). -/
def Obligations.PidTickComputesItsTerms : Prop :=
  ∀ (s : State) (a : Fin 7) (feedback target : F32), ∃ t y, exec (.pidTick a feedback target) s = .next t ∧
    t.out = .float y ∧
    (∀ b : Fin 7, b ≠ a → t.pid[b] = s.pid[b]) ∧
    t.pid[a] = { s.pid[a] with
      integralAccum := t.pid[a].integralAccum, lastError := t.pid[a].lastError, lastOutput := t.pid[a].lastOutput } ∧
    t = { s with pid := t.pid, draws := s.draws + 8, out := t.out } ∧
    (isFinite feedback = true → isFinite target = true → s.pid[a].finite = true →
      let n := s.draws
      let e := fsub n target feedback
      let acc := fadd (n + 1) s.pid[a].integralAccum e
      let it := fclamp (fmul (n + 2) s.pid[a].ki acc) (fneg s.pid[a].ioutMax) s.pid[a].ioutMax
      let p := fmul (n + 3) s.pid[a].kp e
      let d := fmul (n + 5) s.pid[a].kd (fsub (n + 4) e s.pid[a].lastError)
      let u := fadd (n + 7) (fadd (n + 6) p it) d
      t.pid[a].lastError = e ∧ t.pid[a].integralAccum = acc ∧ t.pid[a].lastOutput = y ∧
        y = fclamp u (fneg s.pid[a].outMax) s.pid[a].outMax)

/-- The output bound: with a limit that is a number and not negative, an unclamped sum that is no NaN gives an output
within the limits, and the bound itself when the sum is above it; the same for the integral term. A NaN sum is returned
as it is, and a negative limit gives one of the two bounds. Claimed for finite inputs and registers, the premise rule R165 and
93_implementation_defined.md U1 set for every claim about a tick. -/
def Obligations.PidOutputIsBounded : Prop :=
  ∀ (s : State) (a : Fin 7) (feedback target : F32),
    isFinite feedback = true → isFinite target = true → s.pid[a].finite = true →
    let w := axisWork a feedback target s
    ∃ t, exec (.pidTick a feedback target) s = .next t ∧ t.out = .float w.out ∧ t.pid[a].lastOutput = w.out ∧
      (fle 0x00000000 s.pid[a].outMax = true → isNaN w.u = false →
        fle (fneg s.pid[a].outMax) w.out = true ∧ fle w.out s.pid[a].outMax = true) ∧
      (fgt w.u s.pid[a].outMax = true → w.out = s.pid[a].outMax) ∧
      (isNaN w.u = true → w.out = w.u) ∧
      (flt s.pid[a].outMax 0x00000000 = true → isNaN w.u = false →
        w.out = s.pid[a].outMax ∨ w.out = fneg s.pid[a].outMax) ∧
      (fle 0x00000000 s.pid[a].ioutMax = true →
        isNaN (fmul (s.draws + 2) s.pid[a].ki w.acc) = false →
        fle (fneg s.pid[a].ioutMax) w.it = true ∧ fle w.it s.pid[a].ioutMax = true)

/-! ControlPipeline. -/

/-- TDIV rounds toward zero. -/
def Obligations.DivisionRoundsTowardZero : Prop :=
  ∀ (s : State) (n : Int) (d : Nat), 0 < d →
    exec (.tdiv n d) s = .next { s with out := .integer (n.sign * ((n.natAbs / d : Nat) : Int)) }

/-- MIX_FWD: the exact sums divided toward zero, with no wrap for any input (`L = 1`, log entry 19). -/
def Obligations.MixForwardIsExact : Prop :=
  ∀ (s : State) (m : Vector I32 4), ∃ v : Vector I32 3, exec (.mixFwd m) s = .next { s with out := .body v } ∧
    v[0].toInt = (m[0].toInt + m[1].toInt + m[2].toInt + m[3].toInt).tdiv 4 ∧
    v[1].toInt = (-m[0].toInt + m[1].toInt + m[2].toInt - m[3].toInt).tdiv 4 ∧
    v[2].toInt = (-m[0].toInt + m[1].toInt - m[2].toInt + m[3].toInt).tdiv 4

/-- MIX_INV with the grouping of its rule; the draws it names are the model's own (log entry 9). -/
def Obligations.MixInverseFormula : Prop :=
  ∀ (s : State) (tv : Vector F32 3),
    let n := s.draws
    let t := fmul n (intToFloat 1) tv[2]
    exec (.mixInv tv) s = .next { s with
      draws := n + 9
      out := .motors #v[fsub (n + 2) (fsub (n + 1) tv[0] tv[1]) t, fadd (n + 4) (fadd (n + 3) tv[0] tv[1]) t,
        fsub (n + 6) (fadd (n + 5) tv[0] tv[1]) t, fadd (n + 8) (fsub (n + 7) tv[0] tv[1]) t] }

/-- Forward after inverse is the identity on integer body velocities up to `2^21`: no rounding error and no overflow on
the way (44_mixing_pipeline.md section 2; L = 1: log entry 19). -/
def Obligations.ForwardAfterInverseIsIdentity : Prop :=
  ∀ (s : State) (v : Vector I32 3), (∀ k : Fin 3, v[k].toInt.natAbs ≤ 2 ^ 21) →
    ∃ t tm, exec (.mixInv #v[intToFloat v[0], intToFloat v[1], intToFloat v[2]]) s = .next t ∧ t.out = .motors tm ∧
      exec (.mixFwd #v[floatToInt tm[0], floatToInt tm[1], floatToInt tm[2], floatToInt tm[3]]) t
        = .next { t with out := .body v }

/-- The gate is `initialized` alone, whatever `running` is: before INIT a control tick writes `fb` and `vel` and hands over
no command, every other register keeping its value; after INIT it hands over the commands. -/
def Obligations.ControlTickIsGatedByInit : Prop :=
  ∀ (s : State) (fbIn : Vector I32 4) (tgt : Vector F32 3),
    (s.initialized = false → ∃ vel : Vector I32 3,
      exec (.ctrlTick fbIn tgt) s = .next { s with fb := fbIn, vel := vel, out := .command s.cmd false } ∧
      exec (.mixFwd fbIn) s = .next { s with out := .body vel }) ∧
    (s.initialized = true → ∃ t, exec (.ctrlTick fbIn tgt) s = .next t ∧ t.out = .command t.cmd true)

/-- After INIT a control tick runs the whole pipeline: the three outer axes on the body velocity just computed against
the targets, the inverse mixing of their outputs, the four inner axes on the motor feedback against the motor targets,
and the commands; it writes `fb`, `vel`, `cmd` and the dynamic registers and nothing else. The values are claimed for
finite inputs of each tick (rule R165); L = 1 is log entry 19, and which draw each operation takes is the model's own (log
entry 9). -/
def Obligations.GatedTickRunsThePipeline : Prop :=
  ∀ (s : State) (fbIn : Vector I32 4) (tgt : Vector F32 3), s.initialized = true →
    ∃ t, exec (.ctrlTick fbIn tgt) s = .next t ∧
      t.fb = fbIn ∧ exec (.mixFwd fbIn) s = .next { s with out := .body t.vel } ∧
      t.out = .command t.cmd true ∧
      (∀ a : Fin 7, t.pid[a].gains = s.pid[a].gains) ∧
      t = { s with fb := t.fb, vel := t.vel, cmd := t.cmd, pid := t.pid, out := t.out, draws := s.draws + 65 } ∧
      (s.finiteInputs tgt →
        (∀ k : Fin 3, t.pid[(⟨k, by omega⟩ : Fin 7)] =
          s.pid[(⟨k, by omega⟩ : Fin 7)].afterTick
            (pidCompute (s.draws + 8 * k) s.pid[(⟨k, by omega⟩ : Fin 7)] (intToFloat t.vel[k]) tgt[k])) ∧
        (let tm := mixInverse 1 (s.draws + 24) #v[t.pid[0].lastOutput, t.pid[1].lastOutput, t.pid[2].lastOutput]
         ∀ j : Fin 4, isFinite tm[j] = true → t.pid[(⟨3 + j, by omega⟩ : Fin 7)] =
          s.pid[(⟨3 + j, by omega⟩ : Fin 7)].afterTick
            (pidCompute (s.draws + 33 + 8 * j) s.pid[(⟨3 + j, by omega⟩ : Fin 7)] (intToFloat fbIn[j]) tm[j])) ∧
        ∀ j : Fin 4, t.cmd[j] = floatToInt t.pid[(⟨3 + j, by omega⟩ : Fin 7)].lastOutput)

/-- With the reset limit 2000.0 on an inner axis, the command of its motor lies in -2000 .. 2000 whenever the axis's
output is a number (44_mixing_pipeline.md section 4). Claimed for finite inputs and registers and a finite motor target, the
premise rule R165 and 93_implementation_defined.md U1 set; L = 1 is log entry 19, the draws are the model's (log entry 9). -/
def Obligations.CommandsStayWithinLimits : Prop :=
  ∀ (s : State) (fbIn : Vector I32 4) (tgt : Vector F32 3), s.initialized = true →
    ∃ t, exec (.ctrlTick fbIn tgt) s = .next t ∧
      (s.finiteInputs tgt →
      let tm := mixInverse 1 (s.draws + 24) #v[t.pid[0].lastOutput, t.pid[1].lastOutput, t.pid[2].lastOutput]
      ∀ j : Fin 4, isFinite tm[j] = true → s.pid[(⟨3 + j, by omega⟩ : Fin 7)].outMax = 0x44FA0000 →
        isNaN t.pid[(⟨3 + j, by omega⟩ : Fin 7)].lastOutput = false →
        -2000 ≤ t.cmd[j].toInt ∧ t.cmd[j].toInt ≤ 2000)

/-- The gate is `initialized` alone: a control tick does the same whatever `running` is (44_mixing_pipeline.md section 4). -/
def Obligations.RunningPlaysNoPartInControl : Prop :=
  ∀ (s : State) (fbIn : Vector I32 4) (tgt : Vector F32 3) (b : Bool), ∃ t,
    exec (.ctrlTick fbIn tgt) s = .next t ∧
    exec (.ctrlTick fbIn tgt) { s with running := b } = .next { t with running := b }

/-- A gain set that lands inside a control tick at boundary `k` (rule R57's minimum, `pid_tick`) splits it cleanly: an
axis ticked before the boundary runs with its old gains and one ticked after with the new, never with a mixture, and
afterwards every axis holds the new gains (20_memory.md section 5). The granularity of this hardware is `operation` (log
entry 18). The values are claimed for finite inputs, registers and gains (rule R165, 93_implementation_defined.md U1); L = 1 is
log entry 19, and which draw each operation takes is the model's own (log entry 9). -/
def Obligations.LandedCommitSplitsTheTickCleanly : Prop :=
  ∀ (s : State) (fbIn : Vector I32 4) (tgt : Vector F32 3) (g : GainSet) (k : Fin 8), s.initialized = true →
    ∃ t, TickOutcome .pidTick fbIn tgt s t ∧ t = controlTickLanding (noLanding.set k (some g)) fbIn tgt s ∧
      (∀ a : Fin 7, t.pid[a].gains = (if (a : Nat) < 3 then positionGains g s.pid[a] else velocityGains g s.pid[a]).gains) ∧
      t.running = true ∧
      (s.finiteInputs tgt → (∀ i : Fin 10, isFinite g[i] = true) →
      (∀ a : Fin 3, t.pid[(⟨a, by omega⟩ : Fin 7)].lastOutput =
        (pidCompute (s.draws + 8 * a)
          (if (k : Nat) ≤ a then positionGains g s.pid[(⟨a, by omega⟩ : Fin 7)] else s.pid[(⟨a, by omega⟩ : Fin 7)])
          (intToFloat t.vel[a]) tgt[a]).out) ∧
      (let tm := mixInverse 1 (s.draws + 24) #v[t.pid[0].lastOutput, t.pid[1].lastOutput, t.pid[2].lastOutput]
       ∀ j : Fin 4, isFinite tm[j] = true → t.pid[(⟨3 + j, by omega⟩ : Fin 7)].lastOutput =
        (pidCompute (s.draws + 33 + 8 * j)
          (if (k : Nat) ≤ 3 + j then velocityGains g s.pid[(⟨3 + j, by omega⟩ : Fin 7)]
            else s.pid[(⟨3 + j, by omega⟩ : Fin 7)])
          (intToFloat fbIn[j]) tm[j]).out))

/-! The whole machine. -/

/-- Nothing but the registers survives from one operation to the next: two states with the same registers (and the same
number of draws, the model's own, log entry 9) give the same outputs and the same registers under every port operation,
whatever their buffers, link layers, waiting requests and last outputs are (10_state.md section 1). -/
def Obligations.OnlyRegistersSurviveOperations : Prop :=
  ∀ (i : Instr) (s t : State), isPortOperation i = true → i.wellFormed = true →
    s.rx.wf 55 = true → s.tx.wf 32 = true → t.rx.wf 55 = true → t.tx.wf 32 = true →
    s.sameRegisters t → s.draws = t.draws →
    ∃ s' t', exec i s = .next s' ∧ exec i t = .next t' ∧ s'.sameRegisters t' ∧ s'.out = t'.out ∧ s'.draws = t'.draws

/-- Each register has one writing operation among those of the ports, and reset: `fb`, `vel`, `cmd` and the dynamic PID
registers CTRL_TICK, `pose` and `ori` TLM_TICK, gains and `running` RX_FRAME, `initialized` INIT. -/
def Obligations.EachRegisterHasOneWriter : Prop :=
  ∀ (i : Instr) (s t : State), isPortOperation i = true → i ≠ .reset → exec i s = .next t →
    ((∀ f g, i ≠ .ctrlTick f g) → t.fb = s.fb ∧ t.vel = s.vel ∧ t.cmd = s.cmd ∧
      ∀ a : Fin 7, t.pid[a].integralAccum = s.pid[a].integralAccum ∧ t.pid[a].lastError = s.pid[a].lastError ∧
        t.pid[a].lastOutput = s.pid[a].lastOutput) ∧
    ((∀ p o, i ≠ .tlmTick p o) → t.pose = s.pose ∧ t.ori = s.ori) ∧
    ((∀ b, i ≠ .rxFrame b) → t.running = s.running ∧ ∀ a : Fin 7, t.pid[a].gains = s.pid[a].gains) ∧
    (i ≠ .init → t.initialized = s.initialized)

/-- Over every row of the table: gains and limits are written by reset and by a commit alone, whether COMMIT runs by
itself or inside RX_FRAME (10_state.md section 3). -/
def Obligations.GainsAreWrittenByCommitAlone : Prop :=
  ∀ (i : Instr) (s t : State), exec i s = .next t → i ≠ .reset → (∀ g, i ≠ .commit g) → (∀ b, i ≠ .rxFrame b) →
    ∀ a : Fin 7, t.pid[a].gains = s.pid[a].gains

/-- Over every row of the table: the dynamic registers of an axis are written by reset and by a tick alone, and PID_TICK
writes those of its own axis alone (10_state.md section 3). -/
def Obligations.DynamicRegistersAreWrittenByTicksAlone : Prop :=
  ∀ (i : Instr) (s t : State) (b : Fin 7), exec i s = .next t → i ≠ .reset → (∀ f g, i ≠ .ctrlTick f g) →
    (∀ f g, i ≠ .pidTick b f g) →
    t.pid[b].integralAccum = s.pid[b].integralAccum ∧ t.pid[b].lastError = s.pid[b].lastError ∧
      t.pid[b].lastOutput = s.pid[b].lastOutput

/-- The machine's invariant is kept by every step from every state that has it: canonical buffers inside their
capacities, the link layer's fill within the buffer's, equal gains within each group of axes. -/
def Obligations.StepKeepsTheInvariant : Prop :=
  ∀ s t : State, s.Inv → step s = .next t → t.Inv

/-- The state after reset has the invariant. -/
def Obligations.ResetMeetsTheInvariant : Prop :=
  State.reset.Inv

/-- A delivery of at most 55 bytes ends in RX_FRAME of exactly those bytes; a longer one is discarded: no register and
no output changes, no status is produced, and the link layer is empty again (20_memory.md section 5). That everything up
to the frame-complete signal is discarded is the model's reading (log entry 15), and so are the link layer's fill apart from the
receive buffer, empty after the hand-off (26), and the list of waiting requests (1 and 5). -/
def Obligations.DeliveryDecodesOrDiscards : Prop :=
  ∀ (s : State) (bs : List Byte) (rest : List Request), s.link = ⟨[], false⟩ → s.pending = deliver bs rest →
    (bs.length ≤ 55 →
      Sys2Proof.core.run (bs.length + 1) s = exec (.rxFrame bs) { s with pending := rest }) ∧
    (55 < bs.length →
      Sys2Proof.core.run (bs.length + 1) s = .next { s with pending := rest })

/-- Every well-formed operation completes in every state and leaves the link layer and the waiting requests alone: the
block is ready for the next operation (70_reset_and_hazards.md section 4). That RESET leaves the two alone is the model's
reading (log entry 14). -/
def Obligations.EveryWellFormedOperationCompletes : Prop :=
  ∀ (i : Instr) (s : State), i.wellFormed = true →
    ∃ t, exec i s = .next t ∧ t.link = s.link ∧ t.pending = s.pending

/-- Where the model stops, and that every other operation, well-formed or not, completes (`staysInside`): an access to an
offset outside a buffer faults (XOR8, CMD_DECODE, FLD_DECODE and the FLD rows, log entry 17; 10_state.md section 7 has no
such byte), and an RX_FRAME longer than the buffer is refused (log entry 16; 93_implementation_defined.md U15). That the
first is a fault is the model's choice. -/
def Obligations.StopsOutsideTheRules : Prop :=
  ∀ (s : State) (b : Buf) (lo hi : Nat) (frame : List Byte),
    (lo < hi → b.capacity < hi → exec (.xor8 b lo hi) s = .fault (.bufferOffset b (hi - 1))) ∧
    (55 < hi → exec (.cmdDecode hi) s = .fault (.bufferOffset .rx (hi - 1))) ∧
    (55 < frame.length → exec (.rxFrame frame) s = .refused (.overlongFrame frame.length)) ∧
    (∀ (o lim : Nat) (tag : Byte) (ty : FieldType), fieldTypeOf tag = some ty → o + widthOf ty ≤ lim → 55 < o + widthOf ty →
      exec (.fldDecode o tag lim) s = .fault (.bufferOffset .rx (o + widthOf ty - 1))) ∧
    (∀ (o lim : Nat) (r : BitVec 16), o + 2 ≤ lim → 55 < o + 2 →
      exec (.fldI16 o lim r) s = .fault (.bufferOffset .rx (o + 1)) ∧
      exec (.fldU16 o lim r) s = .fault (.bufferOffset .rx (o + 1))) ∧
    (∀ (o lim : Nat) (r : BitVec 32), o + 4 ≤ lim → 55 < o + 4 →
      exec (.fldI32 o lim r) s = .fault (.bufferOffset .rx (o + 3)) ∧
      exec (.fldU32 o lim r) s = .fault (.bufferOffset .rx (o + 3)) ∧
      exec (.fldF32 o lim r) s = .fault (.bufferOffset .rx (o + 3))) ∧
    (∀ (o lim : Nat) (r : BitVec 8), o + 1 ≤ lim → 55 < o + 1 →
      exec (.fldU8 o lim r) s = .fault (.bufferOffset .rx o)) ∧
    (∀ i : Instr, (∀ f, i ≠ .rxFrame f) → ∀ r, exec i s ≠ .refused r) ∧
    ∀ i : Instr, staysInside i = true ↔ ∃ t, exec i s = .next t

/-- Terms outside their row's domain run all the same, each with its row's own effect: TDIV by 0 gives a free value (no result
is stated, 44_mixing_pipeline.md section 1), FLD.INVALID raises its error and OP.RESERVED is ignored whatever the operand is.
The model's choices: log entry 21. -/
def Obligations.TermsOutsideTheirDomainRun : Prop :=
  ∀ (s : State) (n : Int) (tag : Byte) (op : BitVec 3),
    exec (.tdiv n 0) s = .next { s with out := .integer (Config.tdivByZero n) } ∧
    exec (.fldInvalid tag) s = .next { s with out := .failed .unknownFieldType } ∧
    exec (.opReserved op) s = .next { s with out := .none }

/-- The comparisons order finite operands by their values (so that the two zeros are equal), place infinities at the ends and
are false on a NaN; `fneg` flips bit 31 and nothing else, and keeps a NaN a NaN. -/
def Obligations.ComparisonsOrderValues : Prop :=
  ∀ a b : F32,
    (isFinite a = true → isFinite b = true →
      (fgt a b = true ↔ fvalue b < fvalue a) ∧ (flt a b = true ↔ fvalue a < fvalue b) ∧
        (fle a b = true ↔ fvalue a ≤ fvalue b)) ∧
    (isNaN a = true ∨ isNaN b = true → fgt a b = false ∧ flt a b = false ∧ fle a b = false) ∧
    (isInf a = true → isFinite b = true →
      fgt a b = !fsign a ∧ flt a b = fsign a ∧ fle a b = fsign a ∧
        fgt b a = fsign a ∧ flt b a = !fsign a ∧ fle b a = !fsign a) ∧
    (isInf a = true → isInf b = true →
      fgt a b = (!fsign a && fsign b) ∧ flt a b = (fsign a && !fsign b) ∧ fle a b = (fsign a || !fsign b)) ∧
    (∀ i, i < 32 → (fneg a).getLsbD i = if i = 31 then !a.getLsbD i else a.getLsbD i) ∧
    isNaN (fneg a) = isNaN a ∧ fneg 0x00000000 = 0x80000000
end

