-- ==== Sys2Proof/Laws/Binary32.lean ====
section
/-! SUPPORT. The laws of binary32 patterns, of the rounding function and of CLAMP. -/

namespace Sys2Proof.Machine

/-! Patterns (rule R155). -/

theorem fsign_toNat (x : F32) : fsign x = decide (2 ^ 31 ≤ x.toNat) := by
  simp [fsign, BitVec.msb_eq_decide]

theorem fexp_toNat (x : F32) : fexp x = x.toNat / 2 ^ 23 % 2 ^ 8 := by
  simp [fexp, BitVec.extractLsb'_toNat, Nat.shiftRight_eq_div_pow]

theorem ffrac_toNat (x : F32) : ffrac x = x.toNat % 2 ^ 23 := by
  simp [ffrac, BitVec.extractLsb'_toNat]

theorem fexp_lt (x : F32) : fexp x < 256 := by
  rw [fexp_toNat]; omega

theorem ffrac_lt (x : F32) : ffrac x < 2 ^ 23 := by
  rw [ffrac_toNat]; omega

/-- A pattern is its sign, its exponent and its fraction. -/
theorem toNat_parts (x : F32) :
    x.toNat = (if fsign x then 2 ^ 31 else 0) + fexp x * 2 ^ 23 + ffrac x := by
  have := x.isLt
  rw [fsign_toNat, fexp_toNat, ffrac_toNat]
  simp only [decide_eq_true_eq]
  split <;> omega

theorem fpack_toNat {neg : Bool} {m : Nat} (h : m < 2 ^ 31) :
    (fpack neg m).toNat = m + if neg then 2 ^ 31 else 0 := by
  simp only [fpack, BitVec.toNat_ofNat]
  cases neg
  · simp only [Bool.false_eq_true, if_false]; omega
  · simp only [if_true]; omega

@[simp] theorem fsign_fpack {neg : Bool} {m : Nat} (h : m < 2 ^ 31) : fsign (fpack neg m) = neg := by
  rw [fsign_toNat, fpack_toNat h]
  cases neg
  · simpa using h
  · simp

theorem fexp_fpack {neg : Bool} {m : Nat} (h : m < 2 ^ 31) : fexp (fpack neg m) = m / 2 ^ 23 := by
  rw [fexp_toNat, fpack_toNat h]
  cases neg
  · simp only [Bool.false_eq_true, if_false]; omega
  · simp only [if_true]; omega

theorem ffrac_fpack {neg : Bool} {m : Nat} (h : m < 2 ^ 31) : ffrac (fpack neg m) = m % 2 ^ 23 := by
  rw [ffrac_toNat, fpack_toNat h]
  cases neg
  · simp only [Bool.false_eq_true, if_false]; omega
  · simp only [if_true]; omega

/-! fneg (rule R158). -/

@[simp] theorem fsign_fneg (x : F32) : fsign (fneg x) = !fsign x := by
  have : (2147483648#32).msb = true := by decide
  simp [fsign, fneg, this]

theorem fneg_low31 (x : F32) : (fneg x).toNat % 2 ^ 31 = x.toNat % 2 ^ 31 := by
  simp only [fneg, BitVec.toNat_xor, Nat.xor_mod_two_pow]
  have : (0x80000000 : F32).toNat % 2 ^ 31 = 0 := by decide
  rw [this, Nat.xor_zero]

@[simp] theorem fexp_fneg (x : F32) : fexp (fneg x) = fexp x := by
  have := fneg_low31 x
  rw [fexp_toNat, fexp_toNat]; omega

@[simp] theorem ffrac_fneg (x : F32) : ffrac (fneg x) = ffrac x := by
  have := fneg_low31 x
  rw [ffrac_toNat, ffrac_toNat]; omega

@[simp] theorem isNaN_fneg (x : F32) : isNaN (fneg x) = isNaN x := by simp [isNaN]

@[simp] theorem isInf_fneg (x : F32) : isInf (fneg x) = isInf x := by simp [isInf]

@[simp] theorem isFinite_fneg (x : F32) : isFinite (fneg x) = isFinite x := by simp [isFinite]

@[simp] theorem funits_fneg (x : F32) : funits (fneg x) = funits x := by simp [funits]

@[simp] theorem fvalue_fneg (x : F32) : fvalue (fneg x) = -fvalue x := by
  cases h : fsign x <;> simp [fvalue, h]

@[simp] theorem forder_fneg (x : F32) : forder (fneg x) = -forder x := by
  cases h : fsign x <;> simp only [forder, fsign_fneg, fneg_low31, h] <;> simp

/-! Kinds of patterns. -/

theorem isFinite_not_isNaN {x : F32} (h : isFinite x = true) : isNaN x = false := by
  simp only [isFinite, decide_eq_true_eq] at h
  simp [isNaN, h]

theorem isFinite_not_isInf {x : F32} (h : isFinite x = true) : isInf x = false := by
  simp only [isFinite, decide_eq_true_eq] at h
  simp [isInf, h]

/-- The free NaN is a quiet NaN whatever the draw is (rule R159). -/
theorem isQuietNaN_freeNaN (n : Nat) : isQuietNaN (freeNaN n) = true := by
  have hp := ((Config.nanPayload n).extractLsb' 0 22).isLt
  have hm : 0x7FC00000 + ((Config.nanPayload n).extractLsb' 0 22).toNat < 2 ^ 31 := by omega
  have hn := fpack_toNat (neg := (Config.nanPayload n).msb) hm
  have h22 : (freeNaN n).getLsbD 22 = true := by
    rw [freeNaN, BitVec.getLsbD, hn, Nat.testBit_eq_decide_div_mod_eq]
    simp only [decide_eq_true_eq]
    split <;> omega
  have hnan : isNaN (freeNaN n) = true := by
    simp only [isNaN, freeNaN, fexp_fpack hm, ffrac_fpack hm, Bool.and_eq_true, decide_eq_true_eq]
    omega
  rw [isQuietNaN, hnan, h22]; rfl

/-! Rounding (rules R156 and R157). -/

theorem two_mul_roundShift (m t : Nat) :
    2 * m ≤ 2 * (roundShift m t * 2 ^ t) + 2 ^ t ∧ 2 * (roundShift m t * 2 ^ t) ≤ 2 * m + 2 ^ t := by
  have hd : m = m / 2 ^ t * 2 ^ t + m % 2 ^ t := by rw [Nat.mul_comm]; exact (Nat.div_add_mod m (2 ^ t)).symm
  have hr : m % 2 ^ t < 2 ^ t := Nat.mod_lt _ (Nat.two_pow_pos t)
  simp only [roundShift]
  split <;> rename_i h
  · rw [Nat.add_mul]; omega
  · omega

/-- Half way between two multiples the even one is taken. -/
theorem roundShift_tie {m t : Nat} (h : 2 * m = 2 * (roundShift m t * 2 ^ t) + 2 ^ t ∨
    2 * (roundShift m t * 2 ^ t) = 2 * m + 2 ^ t) : roundShift m t % 2 = 0 := by
  have hd : m = m / 2 ^ t * 2 ^ t + m % 2 ^ t := by rw [Nat.mul_comm]; exact (Nat.div_add_mod m (2 ^ t)).symm
  have hr : m % 2 ^ t < 2 ^ t := Nat.mod_lt _ (Nat.two_pow_pos t)
  simp only [roundShift] at h ⊢
  split at h <;> rename_i hc
  · rw [if_pos hc]
    rw [Nat.add_mul] at h
    omega
  · rw [if_neg hc]
    omega

theorem roundShift_exact {q t : Nat} : roundShift (q * 2 ^ t) t = q := by
  have hp := Nat.two_pow_pos t
  simp only [roundShift, Nat.mul_div_cancel _ hp, Nat.mul_mod_left]
  rw [if_neg (by omega)]

theorem roundUnits_le (m k : Nat) : roundUnits m k ≤ 0x7F800000 := by
  simp only [roundUnits]; split <;> omega

theorem roundUnits_lt (m k : Nat) : roundUnits m k < 2 ^ 31 := by
  have := roundUnits_le m k; omega

/-! CLAMP (rule R160). -/

/-- All that CLAMP can do, in the order of its tests. -/
theorem fclamp_cases (x lo hi : F32) :
    (fgt x hi = true ∧ fclamp x lo hi = hi) ∨ (fgt x hi = false ∧ flt x lo = true ∧ fclamp x lo hi = lo) ∨
      (fgt x hi = false ∧ flt x lo = false ∧ fclamp x lo hi = x) := by
  unfold fclamp
  cases fgt x hi <;> cases flt x lo <;> simp

theorem fclamp_nan {x lo hi : F32} (h : isNaN x = true) : fclamp x lo hi = x := by
  simp [fclamp, fgt, flt, h]

end Sys2Proof.Machine
end

