-- ==== Sys2Proof/Laws/Codec.lean ====
section
/-! SUPPORT. The laws of byte order, of the field codec and of the walk: what each shared operation can answer. -/

namespace Sys2Proof.Machine

/-! Byte order (rules R51 to R53). -/

theorem join16_bytes (b0 b1 : Byte) (i : Nat) :
    (join16 b0 b1).getLsbD i = if i < 8 then b0.getLsbD i else b1.getLsbD (i - 8) := by
  simp only [join16, BitVec.getLsbD_append]

@[simp] theorem le16_join16 (b0 b1 : Byte) : le16 (join16 b0 b1) = [b0, b1] := by
  simp only [le16, List.cons.injEq, and_true]
  refine ⟨?_, ?_⟩ <;>
  · apply BitVec.eq_of_getLsbD_eq
    intro i hi
    rw [BitVec.getLsbD_extractLsb', join16_bytes]
    simp [hi]

@[simp] theorem join16_split (v : BitVec 16) : join16 (v.extractLsb' 0 8) (v.extractLsb' 8 8) = v := by
  apply BitVec.eq_of_getLsbD_eq
  intro i hi
  rw [join16_bytes]
  split
  · rename_i h; simp [h]
  · simp only [BitVec.getLsbD_extractLsb', show i - 8 < 8 by omega, show 8 + (i - 8) = i by omega]; simp

theorem join32_bytes (b0 b1 b2 b3 : Byte) (i : Nat) (hi : i < 32) :
    (join32 b0 b1 b2 b3).getLsbD i =
      if i < 8 then b0.getLsbD i else if i < 16 then b1.getLsbD (i - 8)
      else if i < 24 then b2.getLsbD (i - 16) else b3.getLsbD (i - 24) := by
  simp only [join32, BitVec.getLsbD_append]
  by_cases h8 : i < 8
  · simp [h8]
  · by_cases h16 : i < 16
    · simp [h8, h16, show i - 8 < 8 by omega]
    · by_cases h24 : i < 24
      · simp only [h8, h16, h24, show ¬ i - 8 < 8 by omega, show i - 8 - 8 = i - 16 by omega,
          show i - 16 < 8 by omega, if_true, if_false]
      · simp [h8, h16, h24, show ¬ i - 8 < 8 by omega, show ¬ i - 8 - 8 < 8 by omega,
          show i - 8 - 8 - 8 = i - 24 by omega]

@[simp] theorem join32_split (v : BitVec 32) :
    join32 (v.extractLsb' 0 8) (v.extractLsb' 8 8) (v.extractLsb' 16 8) (v.extractLsb' 24 8) = v := by
  apply BitVec.eq_of_getLsbD_eq
  intro i hi
  rw [join32_bytes _ _ _ _ _ hi]
  split
  · rename_i h; simp [h]
  · split
    · simp only [BitVec.getLsbD_extractLsb', show i - 8 < 8 by omega, show 8 + (i - 8) = i by omega]; simp
    · split
      · simp only [BitVec.getLsbD_extractLsb', show i - 16 < 8 by omega, show 16 + (i - 16) = i by omega]; simp
      · simp only [BitVec.getLsbD_extractLsb', show i - 24 < 8 by omega, show 24 + (i - 24) = i by omega]; simp

@[simp] theorem le32_join32 (b0 b1 b2 b3 : Byte) : le32 (join32 b0 b1 b2 b3) = [b0, b1, b2, b3] := by
  simp only [le32, List.cons.injEq, and_true]
  refine ⟨?_, ?_, ?_, ?_⟩ <;>
  · apply BitVec.eq_of_getLsbD_eq
    intro i hi
    rw [BitVec.getLsbD_extractLsb', join32_bytes _ _ _ _ _ (by omega)]
    simp only [hi, decide_true, Bool.true_and]
    repeat' split
    all_goals first | omega | (congr 1; omega)

@[simp] theorem length_le16 (v : BitVec 16) : (le16 v).length = 2 := rfl

@[simp] theorem length_le32 (v : BitVec 32) : (le32 v).length = 4 := rfl

@[simp] theorem length_flatMap_le16 (l : List (BitVec 16)) : (l.flatMap le16).length = 2 * l.length := by
  induction l with
  | nil => rfl
  | cons v l ih => simp only [List.flatMap_cons, List.length_append, length_le16, ih, List.length_cons]; omega

@[simp] theorem length_flatMap_le32 (l : List (BitVec 32)) : (l.flatMap le32).length = 4 * l.length := by
  induction l with
  | nil => rfl
  | cons v l ih => simp only [List.flatMap_cons, List.length_append, length_le32, ih, List.length_cons]; omega

@[simp] theorem length_encodeFloatField (v : F32) : (encodeFloatField v).length = 5 := rfl

@[simp] theorem length_flatMap_floatField (l : List F32) : (l.flatMap encodeFloatField).length = 5 * l.length := by
  induction l with
  | nil => rfl
  | cons v l ih =>
    simp only [List.flatMap_cons, List.length_append, encodeFloatField, List.length_cons, length_le32] at ih ⊢
    omega

theorem join16_toNat (b0 b1 : Byte) : (join16 b0 b1).toNat = b0.toNat + 256 * b1.toNat := by
  have := b0.isLt
  simp only [join16, BitVec.toNat_append]
  rw [← Nat.shiftLeft_add_eq_or_of_lt this]
  simp [Nat.shiftLeft_eq]; omega

theorem join32_toNat (b0 b1 b2 b3 : Byte) :
    (join32 b0 b1 b2 b3).toNat = b0.toNat + 256 * b1.toNat + 65536 * b2.toNat + 16777216 * b3.toNat := by
  have h0 := b0.isLt
  have h1 := b1.isLt
  have h2 := b2.isLt
  simp only [join32, BitVec.toNat_append]
  rw [← Nat.shiftLeft_add_eq_or_of_lt h0, ← Nat.shiftLeft_add_eq_or_of_lt h1, ← Nat.shiftLeft_add_eq_or_of_lt h2]
  simp [Nat.shiftLeft_eq]; omega

/-! The exclusive-or (rule R100). -/

@[simp] theorem xorBytes_nil : xorBytes [] = 0 := rfl

theorem foldl_xor_init (bs : List Byte) (r : Byte) : bs.foldl (fun r x => r ^^^ x) r = r ^^^ xorBytes bs := by
  induction bs generalizing r with
  | nil => simp
  | cons b bs ih => rw [List.foldl_cons, ih (r ^^^ b), xorBytes, xorBytes, List.foldl_cons, ih (0 ^^^ b)]; simp [BitVec.xor_assoc, xorBytes]

@[simp] theorem xorBytes_append (as bs : List Byte) : xorBytes (as ++ bs) = xorBytes as ^^^ xorBytes bs := by
  rw [xorBytes, List.foldl_append, foldl_xor_init]; rfl

@[simp] theorem xorBytes_cons (b : Byte) (bs : List Byte) : xorBytes (b :: bs) = b ^^^ xorBytes bs := by
  rw [xorBytes, List.foldl_cons, foldl_xor_init]; simp

/-- The checksum of a sealed frame's body is the byte that follows it (rules R75 and R83). -/
theorem xor8_sealFrame (body : List Byte) : xor8 (sealFrame body) 0 body.length = xorBytes body := by
  simp [xor8, sealFrame]

/-! The field codec (rules R101 and R102). -/

@[simp] theorem fieldTypeOf_tagOf (ty : FieldType) : fieldTypeOf (tagOf ty) = some ty := by
  cases ty <;> rfl

theorem tagOf_of_fieldTypeOf {tag : Byte} {ty : FieldType} (h : fieldTypeOf tag = some ty) : tagOf ty = tag := by
  have key : ∀ t : Byte, ∀ ty, fieldTypeOf t = some ty → tagOf ty = t := by decide
  exact key tag ty h

theorem fieldTypeOf_eq_none {tag : Byte} : fieldTypeOf tag = none ↔ 6 ≤ tag.toNat := by
  have key : ∀ t : Byte, fieldTypeOf t = none ↔ 6 ≤ t.toNat := by decide
  exact key tag

theorem widthOf_pos (ty : FieldType) : 1 ≤ widthOf ty ∧ widthOf ty ≤ 4 := by
  cases ty <;> decide

/-- The bound test answers Truncated or the field with the offset after it. -/
theorem boundField_cases (o w lim : Nat) (f : Field) :
    (lim < o + w ∧ boundField o w lim f = .error .truncated) ∨
      (o + w ≤ lim ∧ boundField o w lim f = .ok (f, o + w)) := by
  by_cases h : lim < o + w
  · exact .inl ⟨h, by simp [boundField, h]⟩
  · exact .inr ⟨by omega, by simp [boundField, h]⟩

/-- All that a field decoding can do (rule R102). -/
theorem decodeFieldAt_cases (b : List Byte) (o : Nat) (tag : Byte) (lim : Nat) :
    (fieldTypeOf tag = none ∧ decodeFieldAt b o tag lim = .error .unknownFieldType) ∨
      ∃ ty, fieldTypeOf tag = some ty ∧
        ((lim < o + widthOf ty ∧ decodeFieldAt b o tag lim = .error .truncated) ∨
          (o + widthOf ty ≤ lim ∧ decodeFieldAt b o tag lim = .ok (fieldAt ty b o, o + widthOf ty))) := by
  cases h : fieldTypeOf tag with
  | none => exact .inl ⟨rfl, by simp [decodeFieldAt, h]⟩
  | some ty =>
    refine .inr ⟨ty, rfl, ?_⟩
    simpa [decodeFieldAt, h] using boundField_cases o (widthOf ty) lim (fieldAt ty b o)

/-! The walk (rule R124). -/

/-- A completed walk has read as many fields as were declared and has not passed the limit. -/
theorem walk_ok {b : List Byte} {lim n off : Nat} {fs : List Field} {last : Nat}
    (h : walk b lim n off = .ok (fs, last)) (hoff : off ≤ lim) : fs.length = n ∧ off ≤ last ∧ last ≤ lim := by
  induction n generalizing off fs last with
  | zero =>
    simp only [walk, Except.ok.injEq, Prod.mk.injEq] at h
    obtain ⟨rfl, rfl⟩ := h
    exact ⟨rfl, le_refl _, hoff⟩
  | succ n ih =>
    simp only [walk] at h
    split at h
    · cases h
    · rcases decodeFieldAt_cases b (off + 1) (byteAt b off) lim with ⟨_, he⟩ | ⟨ty, _, ⟨_, he⟩ | ⟨hw, he⟩⟩
      · simp [he] at h
      · simp [he] at h
      · rw [he] at h
        simp only at h
        split at h
        · cases h
        · rename_i fs' last' hrec
          simp only [Except.ok.injEq, Prod.mk.injEq] at h
          obtain ⟨rfl, rfl⟩ := h
          obtain ⟨h1, h2, h3⟩ := ih hrec hw
          exact ⟨by simp [h1], by omega, h3⟩

/-- An error of the walk is Truncated or UnknownFieldType (rules R213 and R215). -/
theorem walk_error {b : List Byte} {lim n off : Nat} {e : DecodeError} (h : walk b lim n off = .error e) :
    e = .truncated ∨ e = .unknownFieldType := by
  induction n generalizing off with
  | zero => cases h
  | succ n ih =>
    simp only [walk] at h
    split at h
    · cases h; exact .inl rfl
    · rcases decodeFieldAt_cases b (off + 1) (byteAt b off) lim with ⟨_, he⟩ | ⟨ty, _, ⟨_, he⟩ | ⟨_, he⟩⟩
      · rw [he] at h; cases h; exact .inr rfl
      · rw [he] at h; cases h; exact .inl rfl
      · rw [he] at h
        simp only at h
        split at h
        · rename_i hrec; cases h; exact ih hrec
        · cases h

/-- The layout test answers MalformedPayload or a gain set of the ten payloads (rule R125). -/
theorem layoutGains_cases (count : Nat) (fs : List Field) (off lim : Nat) :
    layoutGains count fs off lim = .error .malformedPayload ∨
      ∃ g, layoutGains count fs off lim = .ok g ∧ count = Config.nGain ∧ off = lim ∧
        (floatPayloads fs).bind gainSetOf = some g := by
  unfold layoutGains
  split
  · exact .inl rfl
  · split
    · exact .inl rfl
    · split
      · exact .inl rfl
      · rename_i h1 h2 _ g hg
        exact .inr ⟨g, rfl, not_ne_iff.mp h1, not_ne_iff.mp h2, hg⟩

end Sys2Proof.Machine
end

