-- ==== Sys2Proof/Laws/State.lean ====
section
/-! SUPPORT. One lemma per field per update of State, so that no proof unfolds a record update. -/

namespace Sys2Proof.Machine

@[simp] theorem State.withOut_fb (s : State) (o : Output) : (s.withOut o).fb = s.fb := rfl
@[simp] theorem State.withOut_vel (s : State) (o : Output) : (s.withOut o).vel = s.vel := rfl
@[simp] theorem State.withOut_pose (s : State) (o : Output) : (s.withOut o).pose = s.pose := rfl
@[simp] theorem State.withOut_ori (s : State) (o : Output) : (s.withOut o).ori = s.ori := rfl
@[simp] theorem State.withOut_cmd (s : State) (o : Output) : (s.withOut o).cmd = s.cmd := rfl
@[simp] theorem State.withOut_pid (s : State) (o : Output) : (s.withOut o).pid = s.pid := rfl
@[simp] theorem State.withOut_running (s : State) (o : Output) : (s.withOut o).running = s.running := rfl
@[simp] theorem State.withOut_initialized (s : State) (o : Output) : (s.withOut o).initialized = s.initialized := rfl
@[simp] theorem State.withOut_rx (s : State) (o : Output) : (s.withOut o).rx = s.rx := rfl
@[simp] theorem State.withOut_tx (s : State) (o : Output) : (s.withOut o).tx = s.tx := rfl
@[simp] theorem State.withOut_link (s : State) (o : Output) : (s.withOut o).link = s.link := rfl
@[simp] theorem State.withOut_pending (s : State) (o : Output) : (s.withOut o).pending = s.pending := rfl
@[simp] theorem State.withOut_out (s : State) (o : Output) : (s.withOut o).out = o := rfl
@[simp] theorem State.withOut_draws (s : State) (o : Output) : (s.withOut o).draws = s.draws := rfl

@[simp] theorem State.withMotion_fb (s : State) (f : Vector I32 4) (v : Vector I32 3) : (s.withMotion f v).fb = f := rfl
@[simp] theorem State.withMotion_vel (s : State) (f : Vector I32 4) (v : Vector I32 3) : (s.withMotion f v).vel = v := rfl
@[simp] theorem State.withMotion_pose (s : State) (f : Vector I32 4) (v : Vector I32 3) : (s.withMotion f v).pose = s.pose := rfl
@[simp] theorem State.withMotion_ori (s : State) (f : Vector I32 4) (v : Vector I32 3) : (s.withMotion f v).ori = s.ori := rfl
@[simp] theorem State.withMotion_cmd (s : State) (f : Vector I32 4) (v : Vector I32 3) : (s.withMotion f v).cmd = s.cmd := rfl
@[simp] theorem State.withMotion_pid (s : State) (f : Vector I32 4) (v : Vector I32 3) : (s.withMotion f v).pid = s.pid := rfl
@[simp] theorem State.withMotion_running (s : State) (f : Vector I32 4) (v : Vector I32 3) : (s.withMotion f v).running = s.running := rfl
@[simp] theorem State.withMotion_initialized (s : State) (f : Vector I32 4) (v : Vector I32 3) : (s.withMotion f v).initialized = s.initialized := rfl
@[simp] theorem State.withMotion_rx (s : State) (f : Vector I32 4) (v : Vector I32 3) : (s.withMotion f v).rx = s.rx := rfl
@[simp] theorem State.withMotion_tx (s : State) (f : Vector I32 4) (v : Vector I32 3) : (s.withMotion f v).tx = s.tx := rfl
@[simp] theorem State.withMotion_link (s : State) (f : Vector I32 4) (v : Vector I32 3) : (s.withMotion f v).link = s.link := rfl
@[simp] theorem State.withMotion_pending (s : State) (f : Vector I32 4) (v : Vector I32 3) : (s.withMotion f v).pending = s.pending := rfl
@[simp] theorem State.withMotion_out (s : State) (f : Vector I32 4) (v : Vector I32 3) : (s.withMotion f v).out = s.out := rfl
@[simp] theorem State.withMotion_draws (s : State) (f : Vector I32 4) (v : Vector I32 3) : (s.withMotion f v).draws = s.draws := rfl

@[simp] theorem State.withSensors_fb (s : State) (p o : Vector I32 3) : (s.withSensors p o).fb = s.fb := rfl
@[simp] theorem State.withSensors_vel (s : State) (p o : Vector I32 3) : (s.withSensors p o).vel = s.vel := rfl
@[simp] theorem State.withSensors_pose (s : State) (p o : Vector I32 3) : (s.withSensors p o).pose = p := rfl
@[simp] theorem State.withSensors_ori (s : State) (p o : Vector I32 3) : (s.withSensors p o).ori = o := rfl
@[simp] theorem State.withSensors_cmd (s : State) (p o : Vector I32 3) : (s.withSensors p o).cmd = s.cmd := rfl
@[simp] theorem State.withSensors_pid (s : State) (p o : Vector I32 3) : (s.withSensors p o).pid = s.pid := rfl
@[simp] theorem State.withSensors_running (s : State) (p o : Vector I32 3) : (s.withSensors p o).running = s.running := rfl
@[simp] theorem State.withSensors_initialized (s : State) (p o : Vector I32 3) : (s.withSensors p o).initialized = s.initialized := rfl
@[simp] theorem State.withSensors_rx (s : State) (p o : Vector I32 3) : (s.withSensors p o).rx = s.rx := rfl
@[simp] theorem State.withSensors_tx (s : State) (p o : Vector I32 3) : (s.withSensors p o).tx = s.tx := rfl
@[simp] theorem State.withSensors_link (s : State) (p o : Vector I32 3) : (s.withSensors p o).link = s.link := rfl
@[simp] theorem State.withSensors_pending (s : State) (p o : Vector I32 3) : (s.withSensors p o).pending = s.pending := rfl
@[simp] theorem State.withSensors_out (s : State) (p o : Vector I32 3) : (s.withSensors p o).out = s.out := rfl
@[simp] theorem State.withSensors_draws (s : State) (p o : Vector I32 3) : (s.withSensors p o).draws = s.draws := rfl

@[simp] theorem State.withCmd_fb (s : State) (c : Vector I32 4) : (s.withCmd c).fb = s.fb := rfl
@[simp] theorem State.withCmd_vel (s : State) (c : Vector I32 4) : (s.withCmd c).vel = s.vel := rfl
@[simp] theorem State.withCmd_pose (s : State) (c : Vector I32 4) : (s.withCmd c).pose = s.pose := rfl
@[simp] theorem State.withCmd_ori (s : State) (c : Vector I32 4) : (s.withCmd c).ori = s.ori := rfl
@[simp] theorem State.withCmd_cmd (s : State) (c : Vector I32 4) : (s.withCmd c).cmd = c := rfl
@[simp] theorem State.withCmd_pid (s : State) (c : Vector I32 4) : (s.withCmd c).pid = s.pid := rfl
@[simp] theorem State.withCmd_running (s : State) (c : Vector I32 4) : (s.withCmd c).running = s.running := rfl
@[simp] theorem State.withCmd_initialized (s : State) (c : Vector I32 4) : (s.withCmd c).initialized = s.initialized := rfl
@[simp] theorem State.withCmd_rx (s : State) (c : Vector I32 4) : (s.withCmd c).rx = s.rx := rfl
@[simp] theorem State.withCmd_tx (s : State) (c : Vector I32 4) : (s.withCmd c).tx = s.tx := rfl
@[simp] theorem State.withCmd_link (s : State) (c : Vector I32 4) : (s.withCmd c).link = s.link := rfl
@[simp] theorem State.withCmd_pending (s : State) (c : Vector I32 4) : (s.withCmd c).pending = s.pending := rfl
@[simp] theorem State.withCmd_out (s : State) (c : Vector I32 4) : (s.withCmd c).out = s.out := rfl
@[simp] theorem State.withCmd_draws (s : State) (c : Vector I32 4) : (s.withCmd c).draws = s.draws := rfl

@[simp] theorem State.withPid_fb (s : State) (p : Vector PidState 7) : (s.withPid p).fb = s.fb := rfl
@[simp] theorem State.withPid_vel (s : State) (p : Vector PidState 7) : (s.withPid p).vel = s.vel := rfl
@[simp] theorem State.withPid_pose (s : State) (p : Vector PidState 7) : (s.withPid p).pose = s.pose := rfl
@[simp] theorem State.withPid_ori (s : State) (p : Vector PidState 7) : (s.withPid p).ori = s.ori := rfl
@[simp] theorem State.withPid_cmd (s : State) (p : Vector PidState 7) : (s.withPid p).cmd = s.cmd := rfl
@[simp] theorem State.withPid_pid (s : State) (p : Vector PidState 7) : (s.withPid p).pid = p := rfl
@[simp] theorem State.withPid_running (s : State) (p : Vector PidState 7) : (s.withPid p).running = s.running := rfl
@[simp] theorem State.withPid_initialized (s : State) (p : Vector PidState 7) : (s.withPid p).initialized = s.initialized := rfl
@[simp] theorem State.withPid_rx (s : State) (p : Vector PidState 7) : (s.withPid p).rx = s.rx := rfl
@[simp] theorem State.withPid_tx (s : State) (p : Vector PidState 7) : (s.withPid p).tx = s.tx := rfl
@[simp] theorem State.withPid_link (s : State) (p : Vector PidState 7) : (s.withPid p).link = s.link := rfl
@[simp] theorem State.withPid_pending (s : State) (p : Vector PidState 7) : (s.withPid p).pending = s.pending := rfl
@[simp] theorem State.withPid_out (s : State) (p : Vector PidState 7) : (s.withPid p).out = s.out := rfl
@[simp] theorem State.withPid_draws (s : State) (p : Vector PidState 7) : (s.withPid p).draws = s.draws := rfl

@[simp] theorem State.withRx_fb (s : State) (m : Memory) : (s.withRx m).fb = s.fb := rfl
@[simp] theorem State.withRx_vel (s : State) (m : Memory) : (s.withRx m).vel = s.vel := rfl
@[simp] theorem State.withRx_pose (s : State) (m : Memory) : (s.withRx m).pose = s.pose := rfl
@[simp] theorem State.withRx_ori (s : State) (m : Memory) : (s.withRx m).ori = s.ori := rfl
@[simp] theorem State.withRx_cmd (s : State) (m : Memory) : (s.withRx m).cmd = s.cmd := rfl
@[simp] theorem State.withRx_pid (s : State) (m : Memory) : (s.withRx m).pid = s.pid := rfl
@[simp] theorem State.withRx_running (s : State) (m : Memory) : (s.withRx m).running = s.running := rfl
@[simp] theorem State.withRx_initialized (s : State) (m : Memory) : (s.withRx m).initialized = s.initialized := rfl
@[simp] theorem State.withRx_rx (s : State) (m : Memory) : (s.withRx m).rx = m := rfl
@[simp] theorem State.withRx_tx (s : State) (m : Memory) : (s.withRx m).tx = s.tx := rfl
@[simp] theorem State.withRx_link (s : State) (m : Memory) : (s.withRx m).link = s.link := rfl
@[simp] theorem State.withRx_pending (s : State) (m : Memory) : (s.withRx m).pending = s.pending := rfl
@[simp] theorem State.withRx_out (s : State) (m : Memory) : (s.withRx m).out = s.out := rfl
@[simp] theorem State.withRx_draws (s : State) (m : Memory) : (s.withRx m).draws = s.draws := rfl

@[simp] theorem State.withTx_fb (s : State) (m : Memory) : (s.withTx m).fb = s.fb := rfl
@[simp] theorem State.withTx_vel (s : State) (m : Memory) : (s.withTx m).vel = s.vel := rfl
@[simp] theorem State.withTx_pose (s : State) (m : Memory) : (s.withTx m).pose = s.pose := rfl
@[simp] theorem State.withTx_ori (s : State) (m : Memory) : (s.withTx m).ori = s.ori := rfl
@[simp] theorem State.withTx_cmd (s : State) (m : Memory) : (s.withTx m).cmd = s.cmd := rfl
@[simp] theorem State.withTx_pid (s : State) (m : Memory) : (s.withTx m).pid = s.pid := rfl
@[simp] theorem State.withTx_running (s : State) (m : Memory) : (s.withTx m).running = s.running := rfl
@[simp] theorem State.withTx_initialized (s : State) (m : Memory) : (s.withTx m).initialized = s.initialized := rfl
@[simp] theorem State.withTx_rx (s : State) (m : Memory) : (s.withTx m).rx = s.rx := rfl
@[simp] theorem State.withTx_tx (s : State) (m : Memory) : (s.withTx m).tx = m := rfl
@[simp] theorem State.withTx_link (s : State) (m : Memory) : (s.withTx m).link = s.link := rfl
@[simp] theorem State.withTx_pending (s : State) (m : Memory) : (s.withTx m).pending = s.pending := rfl
@[simp] theorem State.withTx_out (s : State) (m : Memory) : (s.withTx m).out = s.out := rfl
@[simp] theorem State.withTx_draws (s : State) (m : Memory) : (s.withTx m).draws = s.draws := rfl

@[simp] theorem State.takeDraws_fb (s : State) (n : Nat) : (s.takeDraws n).fb = s.fb := rfl
@[simp] theorem State.takeDraws_vel (s : State) (n : Nat) : (s.takeDraws n).vel = s.vel := rfl
@[simp] theorem State.takeDraws_pose (s : State) (n : Nat) : (s.takeDraws n).pose = s.pose := rfl
@[simp] theorem State.takeDraws_ori (s : State) (n : Nat) : (s.takeDraws n).ori = s.ori := rfl
@[simp] theorem State.takeDraws_cmd (s : State) (n : Nat) : (s.takeDraws n).cmd = s.cmd := rfl
@[simp] theorem State.takeDraws_pid (s : State) (n : Nat) : (s.takeDraws n).pid = s.pid := rfl
@[simp] theorem State.takeDraws_running (s : State) (n : Nat) : (s.takeDraws n).running = s.running := rfl
@[simp] theorem State.takeDraws_initialized (s : State) (n : Nat) : (s.takeDraws n).initialized = s.initialized := rfl
@[simp] theorem State.takeDraws_rx (s : State) (n : Nat) : (s.takeDraws n).rx = s.rx := rfl
@[simp] theorem State.takeDraws_tx (s : State) (n : Nat) : (s.takeDraws n).tx = s.tx := rfl
@[simp] theorem State.takeDraws_link (s : State) (n : Nat) : (s.takeDraws n).link = s.link := rfl
@[simp] theorem State.takeDraws_pending (s : State) (n : Nat) : (s.takeDraws n).pending = s.pending := rfl
@[simp] theorem State.takeDraws_out (s : State) (n : Nat) : (s.takeDraws n).out = s.out := rfl
@[simp] theorem State.takeDraws_draws (s : State) (n : Nat) : (s.takeDraws n).draws = s.draws + n := rfl

@[simp] theorem State.withLink_fb (s : State) (l : Link) : (s.withLink l).fb = s.fb := rfl
@[simp] theorem State.withLink_vel (s : State) (l : Link) : (s.withLink l).vel = s.vel := rfl
@[simp] theorem State.withLink_pose (s : State) (l : Link) : (s.withLink l).pose = s.pose := rfl
@[simp] theorem State.withLink_ori (s : State) (l : Link) : (s.withLink l).ori = s.ori := rfl
@[simp] theorem State.withLink_cmd (s : State) (l : Link) : (s.withLink l).cmd = s.cmd := rfl
@[simp] theorem State.withLink_pid (s : State) (l : Link) : (s.withLink l).pid = s.pid := rfl
@[simp] theorem State.withLink_running (s : State) (l : Link) : (s.withLink l).running = s.running := rfl
@[simp] theorem State.withLink_initialized (s : State) (l : Link) : (s.withLink l).initialized = s.initialized := rfl
@[simp] theorem State.withLink_rx (s : State) (l : Link) : (s.withLink l).rx = s.rx := rfl
@[simp] theorem State.withLink_tx (s : State) (l : Link) : (s.withLink l).tx = s.tx := rfl
@[simp] theorem State.withLink_link (s : State) (l : Link) : (s.withLink l).link = l := rfl
@[simp] theorem State.withLink_pending (s : State) (l : Link) : (s.withLink l).pending = s.pending := rfl
@[simp] theorem State.withLink_out (s : State) (l : Link) : (s.withLink l).out = s.out := rfl
@[simp] theorem State.withLink_draws (s : State) (l : Link) : (s.withLink l).draws = s.draws := rfl

@[simp] theorem State.withPending_fb (s : State) (q : List Request) : (s.withPending q).fb = s.fb := rfl
@[simp] theorem State.withPending_vel (s : State) (q : List Request) : (s.withPending q).vel = s.vel := rfl
@[simp] theorem State.withPending_pose (s : State) (q : List Request) : (s.withPending q).pose = s.pose := rfl
@[simp] theorem State.withPending_ori (s : State) (q : List Request) : (s.withPending q).ori = s.ori := rfl
@[simp] theorem State.withPending_cmd (s : State) (q : List Request) : (s.withPending q).cmd = s.cmd := rfl
@[simp] theorem State.withPending_pid (s : State) (q : List Request) : (s.withPending q).pid = s.pid := rfl
@[simp] theorem State.withPending_running (s : State) (q : List Request) : (s.withPending q).running = s.running := rfl
@[simp] theorem State.withPending_initialized (s : State) (q : List Request) : (s.withPending q).initialized = s.initialized := rfl
@[simp] theorem State.withPending_rx (s : State) (q : List Request) : (s.withPending q).rx = s.rx := rfl
@[simp] theorem State.withPending_tx (s : State) (q : List Request) : (s.withPending q).tx = s.tx := rfl
@[simp] theorem State.withPending_link (s : State) (q : List Request) : (s.withPending q).link = s.link := rfl
@[simp] theorem State.withPending_pending (s : State) (q : List Request) : (s.withPending q).pending = q := rfl
@[simp] theorem State.withPending_out (s : State) (q : List Request) : (s.withPending q).out = s.out := rfl
@[simp] theorem State.withPending_draws (s : State) (q : List Request) : (s.withPending q).draws = s.draws := rfl

@[simp] theorem State.withRunning_fb (s : State) (b : Bool) : (s.withRunning b).fb = s.fb := rfl
@[simp] theorem State.withRunning_vel (s : State) (b : Bool) : (s.withRunning b).vel = s.vel := rfl
@[simp] theorem State.withRunning_pose (s : State) (b : Bool) : (s.withRunning b).pose = s.pose := rfl
@[simp] theorem State.withRunning_ori (s : State) (b : Bool) : (s.withRunning b).ori = s.ori := rfl
@[simp] theorem State.withRunning_cmd (s : State) (b : Bool) : (s.withRunning b).cmd = s.cmd := rfl
@[simp] theorem State.withRunning_pid (s : State) (b : Bool) : (s.withRunning b).pid = s.pid := rfl
@[simp] theorem State.withRunning_running (s : State) (b : Bool) : (s.withRunning b).running = b := rfl
@[simp] theorem State.withRunning_initialized (s : State) (b : Bool) : (s.withRunning b).initialized = s.initialized := rfl
@[simp] theorem State.withRunning_rx (s : State) (b : Bool) : (s.withRunning b).rx = s.rx := rfl
@[simp] theorem State.withRunning_tx (s : State) (b : Bool) : (s.withRunning b).tx = s.tx := rfl
@[simp] theorem State.withRunning_link (s : State) (b : Bool) : (s.withRunning b).link = s.link := rfl
@[simp] theorem State.withRunning_pending (s : State) (b : Bool) : (s.withRunning b).pending = s.pending := rfl
@[simp] theorem State.withRunning_out (s : State) (b : Bool) : (s.withRunning b).out = s.out := rfl
@[simp] theorem State.withRunning_draws (s : State) (b : Bool) : (s.withRunning b).draws = s.draws := rfl

@[simp] theorem State.withInitialized_fb (s : State) (b : Bool) : (s.withInitialized b).fb = s.fb := rfl
@[simp] theorem State.withInitialized_vel (s : State) (b : Bool) : (s.withInitialized b).vel = s.vel := rfl
@[simp] theorem State.withInitialized_pose (s : State) (b : Bool) : (s.withInitialized b).pose = s.pose := rfl
@[simp] theorem State.withInitialized_ori (s : State) (b : Bool) : (s.withInitialized b).ori = s.ori := rfl
@[simp] theorem State.withInitialized_cmd (s : State) (b : Bool) : (s.withInitialized b).cmd = s.cmd := rfl
@[simp] theorem State.withInitialized_pid (s : State) (b : Bool) : (s.withInitialized b).pid = s.pid := rfl
@[simp] theorem State.withInitialized_running (s : State) (b : Bool) : (s.withInitialized b).running = s.running := rfl
@[simp] theorem State.withInitialized_initialized (s : State) (b : Bool) : (s.withInitialized b).initialized = b := rfl
@[simp] theorem State.withInitialized_rx (s : State) (b : Bool) : (s.withInitialized b).rx = s.rx := rfl
@[simp] theorem State.withInitialized_tx (s : State) (b : Bool) : (s.withInitialized b).tx = s.tx := rfl
@[simp] theorem State.withInitialized_link (s : State) (b : Bool) : (s.withInitialized b).link = s.link := rfl
@[simp] theorem State.withInitialized_pending (s : State) (b : Bool) : (s.withInitialized b).pending = s.pending := rfl
@[simp] theorem State.withInitialized_out (s : State) (b : Bool) : (s.withInitialized b).out = s.out := rfl
@[simp] theorem State.withInitialized_draws (s : State) (b : Bool) : (s.withInitialized b).draws = s.draws := rfl

@[simp] theorem State.resetRegisters_fb (s : State) : (s.resetRegisters).fb = State.reset.fb := rfl
@[simp] theorem State.resetRegisters_vel (s : State) : (s.resetRegisters).vel = State.reset.vel := rfl
@[simp] theorem State.resetRegisters_pose (s : State) : (s.resetRegisters).pose = State.reset.pose := rfl
@[simp] theorem State.resetRegisters_ori (s : State) : (s.resetRegisters).ori = State.reset.ori := rfl
@[simp] theorem State.resetRegisters_cmd (s : State) : (s.resetRegisters).cmd = State.reset.cmd := rfl
@[simp] theorem State.resetRegisters_pid (s : State) : (s.resetRegisters).pid = State.reset.pid := rfl
@[simp] theorem State.resetRegisters_running (s : State) : (s.resetRegisters).running = State.reset.running := rfl
@[simp] theorem State.resetRegisters_initialized (s : State) : (s.resetRegisters).initialized = State.reset.initialized := rfl
@[simp] theorem State.resetRegisters_rx (s : State) : (s.resetRegisters).rx = s.rx := rfl
@[simp] theorem State.resetRegisters_tx (s : State) : (s.resetRegisters).tx = s.tx := rfl
@[simp] theorem State.resetRegisters_link (s : State) : (s.resetRegisters).link = s.link := rfl
@[simp] theorem State.resetRegisters_pending (s : State) : (s.resetRegisters).pending = s.pending := rfl
@[simp] theorem State.resetRegisters_out (s : State) : (s.resetRegisters).out = s.out := rfl
@[simp] theorem State.resetRegisters_draws (s : State) : (s.resetRegisters).draws = s.draws := rfl

@[simp] theorem setRunning_fb (s : State) : (setRunning s).fb = s.fb := rfl
@[simp] theorem setRunning_vel (s : State) : (setRunning s).vel = s.vel := rfl
@[simp] theorem setRunning_pose (s : State) : (setRunning s).pose = s.pose := rfl
@[simp] theorem setRunning_ori (s : State) : (setRunning s).ori = s.ori := rfl
@[simp] theorem setRunning_cmd (s : State) : (setRunning s).cmd = s.cmd := rfl
@[simp] theorem setRunning_pid (s : State) : (setRunning s).pid = s.pid := rfl
@[simp] theorem setRunning_running (s : State) : (setRunning s).running = true := rfl
@[simp] theorem setRunning_initialized (s : State) : (setRunning s).initialized = s.initialized := rfl
@[simp] theorem setRunning_rx (s : State) : (setRunning s).rx = s.rx := rfl
@[simp] theorem setRunning_tx (s : State) : (setRunning s).tx = s.tx := rfl
@[simp] theorem setRunning_link (s : State) : (setRunning s).link = s.link := rfl
@[simp] theorem setRunning_pending (s : State) : (setRunning s).pending = s.pending := rfl
@[simp] theorem setRunning_out (s : State) : (setRunning s).out = s.out := rfl
@[simp] theorem setRunning_draws (s : State) : (setRunning s).draws = s.draws := rfl

@[simp] theorem setInitialized_fb (s : State) : (setInitialized s).fb = s.fb := rfl
@[simp] theorem setInitialized_vel (s : State) : (setInitialized s).vel = s.vel := rfl
@[simp] theorem setInitialized_pose (s : State) : (setInitialized s).pose = s.pose := rfl
@[simp] theorem setInitialized_ori (s : State) : (setInitialized s).ori = s.ori := rfl
@[simp] theorem setInitialized_cmd (s : State) : (setInitialized s).cmd = s.cmd := rfl
@[simp] theorem setInitialized_pid (s : State) : (setInitialized s).pid = s.pid := rfl
@[simp] theorem setInitialized_running (s : State) : (setInitialized s).running = s.running := rfl
@[simp] theorem setInitialized_initialized (s : State) : (setInitialized s).initialized = true := rfl
@[simp] theorem setInitialized_rx (s : State) : (setInitialized s).rx = s.rx := rfl
@[simp] theorem setInitialized_tx (s : State) : (setInitialized s).tx = s.tx := rfl
@[simp] theorem setInitialized_link (s : State) : (setInitialized s).link = s.link := rfl
@[simp] theorem setInitialized_pending (s : State) : (setInitialized s).pending = s.pending := rfl
@[simp] theorem setInitialized_out (s : State) : (setInitialized s).out = s.out := rfl
@[simp] theorem setInitialized_draws (s : State) : (setInitialized s).draws = s.draws := rfl

@[simp] theorem commitGains_fb (g : GainSet) (s : State) : (commitGains g s).fb = s.fb := rfl
@[simp] theorem commitGains_vel (g : GainSet) (s : State) : (commitGains g s).vel = s.vel := rfl
@[simp] theorem commitGains_pose (g : GainSet) (s : State) : (commitGains g s).pose = s.pose := rfl
@[simp] theorem commitGains_ori (g : GainSet) (s : State) : (commitGains g s).ori = s.ori := rfl
@[simp] theorem commitGains_cmd (g : GainSet) (s : State) : (commitGains g s).cmd = s.cmd := rfl
@[simp] theorem commitGains_pid (g : GainSet) (s : State) : (commitGains g s).pid = gainsIntoFile g s.pid := rfl
@[simp] theorem commitGains_running (g : GainSet) (s : State) : (commitGains g s).running = true := rfl
@[simp] theorem commitGains_initialized (g : GainSet) (s : State) : (commitGains g s).initialized = s.initialized := rfl
@[simp] theorem commitGains_rx (g : GainSet) (s : State) : (commitGains g s).rx = s.rx := rfl
@[simp] theorem commitGains_tx (g : GainSet) (s : State) : (commitGains g s).tx = s.tx := rfl
@[simp] theorem commitGains_link (g : GainSet) (s : State) : (commitGains g s).link = s.link := rfl
@[simp] theorem commitGains_pending (g : GainSet) (s : State) : (commitGains g s).pending = s.pending := rfl
@[simp] theorem commitGains_out (g : GainSet) (s : State) : (commitGains g s).out = s.out := rfl
@[simp] theorem commitGains_draws (g : GainSet) (s : State) : (commitGains g s).draws = s.draws := rfl

@[simp] theorem raiseError_fb (e : DecodeError) (s : State) : (raiseError e s).fb = s.fb := rfl
@[simp] theorem raiseError_vel (e : DecodeError) (s : State) : (raiseError e s).vel = s.vel := rfl
@[simp] theorem raiseError_pose (e : DecodeError) (s : State) : (raiseError e s).pose = s.pose := rfl
@[simp] theorem raiseError_ori (e : DecodeError) (s : State) : (raiseError e s).ori = s.ori := rfl
@[simp] theorem raiseError_cmd (e : DecodeError) (s : State) : (raiseError e s).cmd = s.cmd := rfl
@[simp] theorem raiseError_pid (e : DecodeError) (s : State) : (raiseError e s).pid = s.pid := rfl
@[simp] theorem raiseError_running (e : DecodeError) (s : State) : (raiseError e s).running = s.running := rfl
@[simp] theorem raiseError_initialized (e : DecodeError) (s : State) : (raiseError e s).initialized = s.initialized := rfl
@[simp] theorem raiseError_rx (e : DecodeError) (s : State) : (raiseError e s).rx = s.rx := rfl
@[simp] theorem raiseError_tx (e : DecodeError) (s : State) : (raiseError e s).tx = s.tx := rfl
@[simp] theorem raiseError_link (e : DecodeError) (s : State) : (raiseError e s).link = s.link := rfl
@[simp] theorem raiseError_pending (e : DecodeError) (s : State) : (raiseError e s).pending = s.pending := rfl
@[simp] theorem raiseError_out (e : DecodeError) (s : State) : (raiseError e s).out = .failed e := rfl
@[simp] theorem raiseError_draws (e : DecodeError) (s : State) : (raiseError e s).draws = s.draws := rfl

@[simp] theorem dropFrame_fb (e : DecodeError) (s : State) : (dropFrame e s).fb = s.fb := rfl
@[simp] theorem dropFrame_vel (e : DecodeError) (s : State) : (dropFrame e s).vel = s.vel := rfl
@[simp] theorem dropFrame_pose (e : DecodeError) (s : State) : (dropFrame e s).pose = s.pose := rfl
@[simp] theorem dropFrame_ori (e : DecodeError) (s : State) : (dropFrame e s).ori = s.ori := rfl
@[simp] theorem dropFrame_cmd (e : DecodeError) (s : State) : (dropFrame e s).cmd = s.cmd := rfl
@[simp] theorem dropFrame_pid (e : DecodeError) (s : State) : (dropFrame e s).pid = s.pid := rfl
@[simp] theorem dropFrame_running (e : DecodeError) (s : State) : (dropFrame e s).running = s.running := rfl
@[simp] theorem dropFrame_initialized (e : DecodeError) (s : State) : (dropFrame e s).initialized = s.initialized := rfl
@[simp] theorem dropFrame_rx (e : DecodeError) (s : State) : (dropFrame e s).rx = s.rx := rfl
@[simp] theorem dropFrame_tx (e : DecodeError) (s : State) : (dropFrame e s).tx = s.tx := rfl
@[simp] theorem dropFrame_link (e : DecodeError) (s : State) : (dropFrame e s).link = s.link := rfl
@[simp] theorem dropFrame_pending (e : DecodeError) (s : State) : (dropFrame e s).pending = s.pending := rfl
@[simp] theorem dropFrame_out (e : DecodeError) (s : State) : (dropFrame e s).out = .status (.err e) := rfl
@[simp] theorem dropFrame_draws (e : DecodeError) (s : State) : (dropFrame e s).draws = s.draws := rfl

@[simp] theorem State.handOver_fb (s : State) (b : List Byte) : (s.handOver b).fb = s.fb := rfl
@[simp] theorem State.handOver_vel (s : State) (b : List Byte) : (s.handOver b).vel = s.vel := rfl
@[simp] theorem State.handOver_pose (s : State) (b : List Byte) : (s.handOver b).pose = s.pose := rfl
@[simp] theorem State.handOver_ori (s : State) (b : List Byte) : (s.handOver b).ori = s.ori := rfl
@[simp] theorem State.handOver_cmd (s : State) (b : List Byte) : (s.handOver b).cmd = s.cmd := rfl
@[simp] theorem State.handOver_pid (s : State) (b : List Byte) : (s.handOver b).pid = s.pid := rfl
@[simp] theorem State.handOver_running (s : State) (b : List Byte) : (s.handOver b).running = s.running := rfl
@[simp] theorem State.handOver_initialized (s : State) (b : List Byte) : (s.handOver b).initialized = s.initialized := rfl
@[simp] theorem State.handOver_rx (s : State) (b : List Byte) : (s.handOver b).rx = s.rx.writeBytes 0 b := rfl
@[simp] theorem State.handOver_tx (s : State) (b : List Byte) : (s.handOver b).tx = s.tx := rfl
@[simp] theorem State.handOver_link (s : State) (b : List Byte) : (s.handOver b).link = s.link := rfl
@[simp] theorem State.handOver_pending (s : State) (b : List Byte) : (s.handOver b).pending = s.pending := rfl
@[simp] theorem State.handOver_out (s : State) (b : List Byte) : (s.handOver b).out = s.out := rfl
@[simp] theorem State.handOver_draws (s : State) (b : List Byte) : (s.handOver b).draws = s.draws := rfl

@[simp] theorem PidState.withGains_kp (r : PidState) (a b c d e : F32) : (r.withGains a b c d e).kp = a := rfl
@[simp] theorem PidState.withGains_ki (r : PidState) (a b c d e : F32) : (r.withGains a b c d e).ki = b := rfl
@[simp] theorem PidState.withGains_kd (r : PidState) (a b c d e : F32) : (r.withGains a b c d e).kd = c := rfl
@[simp] theorem PidState.withGains_ioutMax (r : PidState) (a b c d e : F32) : (r.withGains a b c d e).ioutMax = d := rfl
@[simp] theorem PidState.withGains_outMax (r : PidState) (a b c d e : F32) : (r.withGains a b c d e).outMax = e := rfl
@[simp] theorem PidState.withGains_integralAccum (r : PidState) (a b c d e : F32) : (r.withGains a b c d e).integralAccum = r.integralAccum := rfl
@[simp] theorem PidState.withGains_lastError (r : PidState) (a b c d e : F32) : (r.withGains a b c d e).lastError = r.lastError := rfl
@[simp] theorem PidState.withGains_lastOutput (r : PidState) (a b c d e : F32) : (r.withGains a b c d e).lastOutput = r.lastOutput := rfl

end Sys2Proof.Machine
end

