-- ==== Sys2Proof/Laws/Control.lean ====
section
/-! SUPPORT. What the PID tick and the loops of the control tick change, and what they leave alone. -/

namespace Sys2Proof.Machine

/-! The tick of one axis (rule R161). -/

@[simp] theorem axisTick_fb (a : Fin 7) (f t : F32) (s : State) : (axisTick a f t s).fb = s.fb := rfl
@[simp] theorem axisTick_vel (a : Fin 7) (f t : F32) (s : State) : (axisTick a f t s).vel = s.vel := rfl
@[simp] theorem axisTick_pose (a : Fin 7) (f t : F32) (s : State) : (axisTick a f t s).pose = s.pose := rfl
@[simp] theorem axisTick_ori (a : Fin 7) (f t : F32) (s : State) : (axisTick a f t s).ori = s.ori := rfl
@[simp] theorem axisTick_cmd (a : Fin 7) (f t : F32) (s : State) : (axisTick a f t s).cmd = s.cmd := rfl
@[simp] theorem axisTick_initialized (a : Fin 7) (f t : F32) (s : State) : (axisTick a f t s).initialized = s.initialized := rfl
@[simp] theorem axisTick_rx (a : Fin 7) (f t : F32) (s : State) : (axisTick a f t s).rx = s.rx := rfl
@[simp] theorem axisTick_tx (a : Fin 7) (f t : F32) (s : State) : (axisTick a f t s).tx = s.tx := rfl
@[simp] theorem axisTick_link (a : Fin 7) (f t : F32) (s : State) : (axisTick a f t s).link = s.link := rfl
@[simp] theorem axisTick_pending (a : Fin 7) (f t : F32) (s : State) : (axisTick a f t s).pending = s.pending := rfl
@[simp] theorem axisTick_out (a : Fin 7) (f t : F32) (s : State) : (axisTick a f t s).out = s.out := rfl
@[simp] theorem axisTick_running (a : Fin 7) (f t : F32) (s : State) : (axisTick a f t s).running = s.running := rfl

@[simp] theorem axisTick_draws (a : Fin 7) (f t : F32) (s : State) :
    (axisTick a f t s).draws = s.draws + pidDraws := rfl

theorem axisTick_pid (a : Fin 7) (f t : F32) (s : State) :
    (axisTick a f t s).pid = s.pid.set a (s.pid[a].afterTick (axisWork a f t s)) := rfl

/-- The ticked axis has its three dynamic registers written. -/
theorem axisTick_pid_same (a : Fin 7) (f t : F32) (s : State) :
    (axisTick a f t s).pid[a] = s.pid[a].afterTick (axisWork a f t s) := by
  simp [axisTick_pid]

/-- Every other axis is as it was. -/
theorem axisTick_pid_other {a b : Fin 7} (h : b ≠ a) (f t : F32) (s : State) :
    (axisTick a f t s).pid[b] = s.pid[b] := by
  have : (a : Nat) ≠ b := fun e => h (Fin.ext e.symm)
  simp [axisTick_pid, this]

@[simp] theorem PidState.afterTick_kp (r : PidState) (w : PidWork) : (r.afterTick w).kp = r.kp := rfl
@[simp] theorem PidState.afterTick_ki (r : PidState) (w : PidWork) : (r.afterTick w).ki = r.ki := rfl
@[simp] theorem PidState.afterTick_kd (r : PidState) (w : PidWork) : (r.afterTick w).kd = r.kd := rfl
@[simp] theorem PidState.afterTick_ioutMax (r : PidState) (w : PidWork) : (r.afterTick w).ioutMax = r.ioutMax := rfl
@[simp] theorem PidState.afterTick_outMax (r : PidState) (w : PidWork) : (r.afterTick w).outMax = r.outMax := rfl
@[simp] theorem PidState.afterTick_integralAccum (r : PidState) (w : PidWork) : (r.afterTick w).integralAccum = w.acc := rfl
@[simp] theorem PidState.afterTick_lastError (r : PidState) (w : PidWork) : (r.afterTick w).lastError = w.e := rfl
@[simp] theorem PidState.afterTick_lastOutput (r : PidState) (w : PidWork) : (r.afterTick w).lastOutput = w.out := rfl

/-! A commit landing at a boundary (rule R57). -/

@[simp] theorem landCommit_none (s : State) : landCommit none s = s := rfl

@[simp] theorem landCommit_some (g : GainSet) (s : State) : landCommit (some g) s = commitGains g s := rfl

@[simp] theorem landCommit_fb (g : Option GainSet) (s : State) : (landCommit g s).fb = s.fb := by cases g <;> rfl
@[simp] theorem landCommit_vel (g : Option GainSet) (s : State) : (landCommit g s).vel = s.vel := by cases g <;> rfl
@[simp] theorem landCommit_pose (g : Option GainSet) (s : State) : (landCommit g s).pose = s.pose := by cases g <;> rfl
@[simp] theorem landCommit_ori (g : Option GainSet) (s : State) : (landCommit g s).ori = s.ori := by cases g <;> rfl
@[simp] theorem landCommit_cmd (g : Option GainSet) (s : State) : (landCommit g s).cmd = s.cmd := by cases g <;> rfl
@[simp] theorem landCommit_initialized (g : Option GainSet) (s : State) : (landCommit g s).initialized = s.initialized := by cases g <;> rfl
@[simp] theorem landCommit_rx (g : Option GainSet) (s : State) : (landCommit g s).rx = s.rx := by cases g <;> rfl
@[simp] theorem landCommit_tx (g : Option GainSet) (s : State) : (landCommit g s).tx = s.tx := by cases g <;> rfl
@[simp] theorem landCommit_link (g : Option GainSet) (s : State) : (landCommit g s).link = s.link := by cases g <;> rfl
@[simp] theorem landCommit_pending (g : Option GainSet) (s : State) : (landCommit g s).pending = s.pending := by cases g <;> rfl
@[simp] theorem landCommit_out (g : Option GainSet) (s : State) : (landCommit g s).out = s.out := by cases g <;> rfl
@[simp] theorem landCommit_draws (g : Option GainSet) (s : State) : (landCommit g s).draws = s.draws := by cases g <;> rfl

@[simp] theorem landedTick_fb (g : Option GainSet) (a : Fin 7) (f t : F32) (s : State) : (landedTick g a f t s).2.fb = s.fb := by simp [landedTick]
@[simp] theorem landedTick_vel (g : Option GainSet) (a : Fin 7) (f t : F32) (s : State) : (landedTick g a f t s).2.vel = s.vel := by simp [landedTick]
@[simp] theorem landedTick_pose (g : Option GainSet) (a : Fin 7) (f t : F32) (s : State) : (landedTick g a f t s).2.pose = s.pose := by simp [landedTick]
@[simp] theorem landedTick_ori (g : Option GainSet) (a : Fin 7) (f t : F32) (s : State) : (landedTick g a f t s).2.ori = s.ori := by simp [landedTick]
@[simp] theorem landedTick_cmd (g : Option GainSet) (a : Fin 7) (f t : F32) (s : State) : (landedTick g a f t s).2.cmd = s.cmd := by simp [landedTick]
@[simp] theorem landedTick_initialized (g : Option GainSet) (a : Fin 7) (f t : F32) (s : State) : (landedTick g a f t s).2.initialized = s.initialized := by simp [landedTick]
@[simp] theorem landedTick_rx (g : Option GainSet) (a : Fin 7) (f t : F32) (s : State) : (landedTick g a f t s).2.rx = s.rx := by simp [landedTick]
@[simp] theorem landedTick_tx (g : Option GainSet) (a : Fin 7) (f t : F32) (s : State) : (landedTick g a f t s).2.tx = s.tx := by simp [landedTick]
@[simp] theorem landedTick_link (g : Option GainSet) (a : Fin 7) (f t : F32) (s : State) : (landedTick g a f t s).2.link = s.link := by simp [landedTick]
@[simp] theorem landedTick_pending (g : Option GainSet) (a : Fin 7) (f t : F32) (s : State) : (landedTick g a f t s).2.pending = s.pending := by simp [landedTick]
@[simp] theorem landedTick_out (g : Option GainSet) (a : Fin 7) (f t : F32) (s : State) : (landedTick g a f t s).2.out = s.out := by simp [landedTick]
@[simp] theorem landedTick_draws (g : Option GainSet) (a : Fin 7) (f t : F32) (s : State) :
    (landedTick g a f t s).2.draws = s.draws + pidDraws := by simp [landedTick]

@[simp] theorem landedTick_none (a : Fin 7) (f t : F32) (s : State) :
    landedTick none a f t s = ((axisWork a f t s).out, axisTick a f t s) := rfl

/-! The loops (rules R197, R186 and R198). -/

@[simp] theorem outerLoop_fb (l : Landing) (t : Vector F32 3) (s : State) : (outerLoop l t s).2.fb = s.fb := by simp [outerLoop]
@[simp] theorem outerLoop_vel (l : Landing) (t : Vector F32 3) (s : State) : (outerLoop l t s).2.vel = s.vel := by simp [outerLoop]
@[simp] theorem outerLoop_pose (l : Landing) (t : Vector F32 3) (s : State) : (outerLoop l t s).2.pose = s.pose := by simp [outerLoop]
@[simp] theorem outerLoop_ori (l : Landing) (t : Vector F32 3) (s : State) : (outerLoop l t s).2.ori = s.ori := by simp [outerLoop]
@[simp] theorem outerLoop_cmd (l : Landing) (t : Vector F32 3) (s : State) : (outerLoop l t s).2.cmd = s.cmd := by simp [outerLoop]
@[simp] theorem outerLoop_initialized (l : Landing) (t : Vector F32 3) (s : State) : (outerLoop l t s).2.initialized = s.initialized := by simp [outerLoop]
@[simp] theorem outerLoop_rx (l : Landing) (t : Vector F32 3) (s : State) : (outerLoop l t s).2.rx = s.rx := by simp [outerLoop]
@[simp] theorem outerLoop_tx (l : Landing) (t : Vector F32 3) (s : State) : (outerLoop l t s).2.tx = s.tx := by simp [outerLoop]
@[simp] theorem outerLoop_link (l : Landing) (t : Vector F32 3) (s : State) : (outerLoop l t s).2.link = s.link := by simp [outerLoop]
@[simp] theorem outerLoop_pending (l : Landing) (t : Vector F32 3) (s : State) : (outerLoop l t s).2.pending = s.pending := by simp [outerLoop]
@[simp] theorem outerLoop_out (l : Landing) (t : Vector F32 3) (s : State) : (outerLoop l t s).2.out = s.out := by simp [outerLoop]
@[simp] theorem outerLoop_draws (l : Landing) (t : Vector F32 3) (s : State) :
    (outerLoop l t s).2.draws = s.draws + 3 * pidDraws := by simp [outerLoop]; omega

@[simp] theorem distribute_fb (t : Vector F32 3) (s : State) : (distribute t s).2.fb = s.fb := rfl
@[simp] theorem distribute_vel (t : Vector F32 3) (s : State) : (distribute t s).2.vel = s.vel := rfl
@[simp] theorem distribute_pose (t : Vector F32 3) (s : State) : (distribute t s).2.pose = s.pose := rfl
@[simp] theorem distribute_ori (t : Vector F32 3) (s : State) : (distribute t s).2.ori = s.ori := rfl
@[simp] theorem distribute_cmd (t : Vector F32 3) (s : State) : (distribute t s).2.cmd = s.cmd := rfl
@[simp] theorem distribute_initialized (t : Vector F32 3) (s : State) : (distribute t s).2.initialized = s.initialized := rfl
@[simp] theorem distribute_rx (t : Vector F32 3) (s : State) : (distribute t s).2.rx = s.rx := rfl
@[simp] theorem distribute_tx (t : Vector F32 3) (s : State) : (distribute t s).2.tx = s.tx := rfl
@[simp] theorem distribute_link (t : Vector F32 3) (s : State) : (distribute t s).2.link = s.link := rfl
@[simp] theorem distribute_pending (t : Vector F32 3) (s : State) : (distribute t s).2.pending = s.pending := rfl
@[simp] theorem distribute_out (t : Vector F32 3) (s : State) : (distribute t s).2.out = s.out := rfl
@[simp] theorem distribute_pid (t : Vector F32 3) (s : State) : (distribute t s).2.pid = s.pid := rfl
@[simp] theorem distribute_running (t : Vector F32 3) (s : State) : (distribute t s).2.running = s.running := rfl
@[simp] theorem distribute_draws (t : Vector F32 3) (s : State) :
    (distribute t s).2.draws = s.draws + mixInverseDraws := rfl

@[simp] theorem innerLoop_fb (l : Landing) (t : Vector F32 4) (s : State) : (innerLoop l t s).2.fb = s.fb := by simp [innerLoop]
@[simp] theorem innerLoop_vel (l : Landing) (t : Vector F32 4) (s : State) : (innerLoop l t s).2.vel = s.vel := by simp [innerLoop]
@[simp] theorem innerLoop_pose (l : Landing) (t : Vector F32 4) (s : State) : (innerLoop l t s).2.pose = s.pose := by simp [innerLoop]
@[simp] theorem innerLoop_ori (l : Landing) (t : Vector F32 4) (s : State) : (innerLoop l t s).2.ori = s.ori := by simp [innerLoop]
@[simp] theorem innerLoop_cmd (l : Landing) (t : Vector F32 4) (s : State) : (innerLoop l t s).2.cmd = s.cmd := by simp [innerLoop]
@[simp] theorem innerLoop_initialized (l : Landing) (t : Vector F32 4) (s : State) : (innerLoop l t s).2.initialized = s.initialized := by simp [innerLoop]
@[simp] theorem innerLoop_rx (l : Landing) (t : Vector F32 4) (s : State) : (innerLoop l t s).2.rx = s.rx := by simp [innerLoop]
@[simp] theorem innerLoop_tx (l : Landing) (t : Vector F32 4) (s : State) : (innerLoop l t s).2.tx = s.tx := by simp [innerLoop]
@[simp] theorem innerLoop_link (l : Landing) (t : Vector F32 4) (s : State) : (innerLoop l t s).2.link = s.link := by simp [innerLoop]
@[simp] theorem innerLoop_pending (l : Landing) (t : Vector F32 4) (s : State) : (innerLoop l t s).2.pending = s.pending := by simp [innerLoop]
@[simp] theorem innerLoop_out (l : Landing) (t : Vector F32 4) (s : State) : (innerLoop l t s).2.out = s.out := by simp [innerLoop]
@[simp] theorem innerLoop_draws (l : Landing) (t : Vector F32 4) (s : State) :
    (innerLoop l t s).2.draws = s.draws + 4 * pidDraws := by simp [innerLoop]; omega

/-! The whole cascade writes the PID state file, `cmd` and, with a commit landing, `running`; nothing else. -/

@[simp] theorem cascade_fb (l : Landing) (t : Vector F32 3) (s : State) : (cascade l t s).fb = s.fb := by simp [cascade]
@[simp] theorem cascade_vel (l : Landing) (t : Vector F32 3) (s : State) : (cascade l t s).vel = s.vel := by simp [cascade]
@[simp] theorem cascade_pose (l : Landing) (t : Vector F32 3) (s : State) : (cascade l t s).pose = s.pose := by simp [cascade]
@[simp] theorem cascade_ori (l : Landing) (t : Vector F32 3) (s : State) : (cascade l t s).ori = s.ori := by simp [cascade]
@[simp] theorem cascade_initialized (l : Landing) (t : Vector F32 3) (s : State) : (cascade l t s).initialized = s.initialized := by simp [cascade]
@[simp] theorem cascade_rx (l : Landing) (t : Vector F32 3) (s : State) : (cascade l t s).rx = s.rx := by simp [cascade]
@[simp] theorem cascade_tx (l : Landing) (t : Vector F32 3) (s : State) : (cascade l t s).tx = s.tx := by simp [cascade]
@[simp] theorem cascade_link (l : Landing) (t : Vector F32 3) (s : State) : (cascade l t s).link = s.link := by simp [cascade]
@[simp] theorem cascade_pending (l : Landing) (t : Vector F32 3) (s : State) : (cascade l t s).pending = s.pending := by simp [cascade]
@[simp] theorem cascade_out (l : Landing) (t : Vector F32 3) (s : State) : (cascade l t s).out = s.out := by simp [cascade]
@[simp] theorem cascade_draws (l : Landing) (t : Vector F32 3) (s : State) :
    (cascade l t s).draws = s.draws + (7 * pidDraws + mixInverseDraws) := by simp [cascade]; omega

@[simp] theorem cascade_noLanding_running (t : Vector F32 3) (s : State) :
    (cascade noLanding t s).running = s.running := by
  simp [cascade, innerLoop, outerLoop, noLanding]

/-! The gate (rule R196). -/

/-- Without control authority a control tick writes `fb` and `vel` and hands over no command. -/
theorem controlTick_ungated (f : Vector I32 4) (t : Vector F32 3) (s : State) (h : s.initialized = false) :
    controlTick f t s = (senseMotion f s).withOut (.command s.cmd false) := by
  simp [controlTick, controlTickLanding, controlGranted, senseMotion, h]

/-- With control authority the cascade runs on the state with `fb` and `vel` written. -/
theorem controlTick_gated (f : Vector I32 4) (t : Vector F32 3) (s : State) (h : s.initialized = true) :
    controlTick f t s =
      (cascade noLanding t (senseMotion f s)).withOut (.command (cascade noLanding t (senseMotion f s)).cmd true) := by
  simp [controlTick, controlTickLanding, controlGranted, senseMotion, h]

end Sys2Proof.Machine
end

