-- ==== Sys2Proof/Laws/Memory.lean ====
section
/-! SUPPORT. The laws of the byte buffers: a read after a write, the canonical form, slices. -/

namespace Sys2Proof.Machine

@[simp] theorem Memory.read_nil (x : Nat) : Memory.read [] x = Config.unwrittenByte := rfl

theorem Memory.wfFrom_cons {cap lo a : Nat} {b : Byte} {m : Memory} :
    Memory.wfFrom cap lo ((a, b) :: m) = true ↔
      lo ≤ a ∧ a < cap ∧ b ≠ Config.unwrittenByte ∧ Memory.wfFrom cap (a + 1) m = true := by
  simp [Memory.wfFrom, and_assoc]

theorem Memory.wfFrom_weaken {cap lo lo' : Nat} {m : Memory} (h : lo' ≤ lo) (hm : Memory.wfFrom cap lo m = true) :
    Memory.wfFrom cap lo' m = true := by
  cases m with
  | nil => rfl
  | cons c m =>
    obtain ⟨a, b⟩ := c
    rw [Memory.wfFrom_cons] at hm ⊢
    exact ⟨h.trans hm.1, hm.2⟩

/-- Below the offset it starts at, a canonical buffer lists nothing. -/
theorem Memory.read_below {cap lo x : Nat} {m : Memory} (hm : Memory.wfFrom cap lo m = true) (hx : x < lo) :
    m.read x = Config.unwrittenByte := by
  induction m generalizing lo with
  | nil => rfl
  | cons c m ih =>
    obtain ⟨a, b⟩ := c
    rw [Memory.wfFrom_cons] at hm
    have hxa : x ≠ a := by omega
    simp only [Memory.read, hxa, if_false]
    exact ih hm.2.2.2 (by omega)

theorem Memory.read_write_other {m : Memory} {x y : Nat} {v : Byte} (h : y ≠ x) :
    (m.write x v).read y = m.read y := by
  induction m with
  | nil => by_cases hv : v = Config.unwrittenByte <;> simp [Memory.write, Memory.read, hv, h]
  | cons c m ih =>
    obtain ⟨a, b⟩ := c
    simp only [Memory.write]
    split
    · split <;> simp [Memory.read, h]
    · split
      · rename_i hxa
        subst hxa
        split <;> simp [Memory.read, h]
      · simp only [Memory.read, ih]

theorem Memory.read_write_same {cap lo x : Nat} {m : Memory} {v : Byte} (hm : Memory.wfFrom cap lo m = true) :
    (m.write x v).read x = v := by
  induction m generalizing lo with
  | nil => by_cases hv : v = Config.unwrittenByte <;> simp [Memory.write, Memory.read, hv]
  | cons c m ih =>
    obtain ⟨a, b⟩ := c
    rw [Memory.wfFrom_cons] at hm
    simp only [Memory.write]
    split
    · rename_i hxa
      have hne : x ≠ a := by omega
      split
      · rename_i hv
        simp only [Memory.read, hne, if_false]
        rw [Memory.read_below hm.2.2.2 (by omega), hv]
      · simp [Memory.read]
    · split
      · rename_i hxa
        subst hxa
        split
        · rename_i hv
          rw [Memory.read_below hm.2.2.2 (Nat.lt_succ_self x), hv]
        · simp [Memory.read]
      · rename_i hxa
        simp only [Memory.read, hxa, if_false]
        exact ih hm.2.2.2

theorem Memory.wfFrom_write {cap lo x : Nat} {m : Memory} {v : Byte} (hm : Memory.wfFrom cap lo m = true)
    (hlo : lo ≤ x) (hx : x < cap) : Memory.wfFrom cap lo (m.write x v) = true := by
  induction m generalizing lo with
  | nil => by_cases hv : v = Config.unwrittenByte <;> simp [Memory.write, Memory.wfFrom, hv, hlo, hx]
  | cons c m ih =>
    obtain ⟨a, b⟩ := c
    have hm' := Memory.wfFrom_cons.mp hm
    simp only [Memory.write]
    split
    · rename_i hxa
      split
      · exact hm
      · rename_i hv
        exact Memory.wfFrom_cons.mpr ⟨hlo, hx, hv, Memory.wfFrom_cons.mpr ⟨hxa, hm'.2⟩⟩
    · split
      · rename_i hxa
        subst hxa
        split
        · exact Memory.wfFrom_weaken (by omega) hm'.2.2.2
        · rename_i hv
          exact Memory.wfFrom_cons.mpr ⟨hlo, hx, hv, hm'.2.2.2⟩
      · exact Memory.wfFrom_cons.mpr ⟨hm'.1, hm'.2.1, hm'.2.2.1, ih hm'.2.2.2 (by omega)⟩

/-- A write keeps the canonical form. -/
theorem Memory.wf_write {cap x : Nat} {m : Memory} {v : Byte} (hm : m.wf cap = true) (hx : x < cap) :
    (m.write x v).wf cap = true :=
  Memory.wfFrom_write hm (Nat.zero_le x) hx

theorem Memory.read_write {cap x y : Nat} {m : Memory} {v : Byte} (hm : m.wf cap = true) :
    (m.write x v).read y = if y = x then v else m.read y := by
  by_cases h : y = x
  · subst h; simp [Memory.read_write_same hm]
  · simp [h, Memory.read_write_other h]

/-- Writing consecutive bytes keeps the canonical form. -/
theorem Memory.wf_writeBytes {cap off : Nat} {m : Memory} {bs : List Byte} (hm : m.wf cap = true)
    (h : off + bs.length ≤ cap) : (m.writeBytes off bs).wf cap = true := by
  induction bs generalizing m off with
  | nil => exact hm
  | cons b bs ih =>
    simp only [List.length_cons] at h
    exact ih (Memory.wf_write hm (by omega)) (by omega)

/-- What consecutive writes leave: the bytes written, and every other byte as it was. -/
theorem Memory.read_writeBytes {cap off y : Nat} {m : Memory} {bs : List Byte} (hm : m.wf cap = true)
    (h : off + bs.length ≤ cap) :
    (m.writeBytes off bs).read y = if off ≤ y ∧ y < off + bs.length then byteAt bs (y - off) else m.read y := by
  induction bs generalizing m off with
  | nil => simp [Memory.writeBytes]
  | cons b bs ih =>
    simp only [List.length_cons] at h
    simp only [Memory.writeBytes]
    rw [ih (Memory.wf_write hm (by omega)) (by omega), Memory.read_write hm]
    by_cases hy : y = off
    · subst hy; simp [byteAt]
    · by_cases hin : off + 1 ≤ y ∧ y < off + 1 + bs.length
      · have : y - off = (y - (off + 1)) + 1 := by omega
        rw [if_pos hin, if_pos (by simp only [List.length_cons]; omega), this]
        simp [byteAt]
      · rw [if_neg hin, if_neg hy, if_neg (by simp only [List.length_cons]; omega)]

@[simp] theorem Memory.length_slice (m : Memory) (off n : Nat) : (m.slice off n).length = n := by
  induction n generalizing off with
  | zero => rfl
  | succ n ih => simp [Memory.slice, ih]

/-- A slice holds the buffer's bytes. -/
theorem Memory.byteAt_slice {m : Memory} {off n i : Nat} (h : i < n) :
    byteAt (m.slice off n) i = m.read (off + i) := by
  induction n generalizing off i with
  | zero => omega
  | succ n ih =>
    cases i with
    | zero => rfl
    | succ i =>
      have := ih (off := off + 1) (i := i) (by omega)
      simp only [byteAt, Memory.slice, List.getD_cons_succ] at this ⊢
      rw [this]; congr 1; omega

theorem Memory.slice_congr {m m' : Memory} {off n : Nat} (h : ∀ i, i < n → m.read (off + i) = m'.read (off + i)) :
    m.slice off n = m'.slice off n := by
  induction n generalizing off with
  | zero => rfl
  | succ n ih =>
    simp only [Memory.slice]
    rw [show m.read off = m'.read off from h 0 (by omega),
      ih (fun i hi => by have := h (i + 1) (by omega); rwa [show off + (i + 1) = off + 1 + i by omega] at this)]

/-- What is handed over is what is read back. -/
theorem Memory.slice_writeBytes {cap off : Nat} {m : Memory} {bs : List Byte} (hm : m.wf cap = true)
    (h : off + bs.length ≤ cap) : (m.writeBytes off bs).slice off bs.length = bs := by
  induction bs generalizing m off with
  | nil => rfl
  | cons b bs ih =>
    simp only [List.length_cons] at h
    simp only [List.length_cons, Memory.slice, Memory.writeBytes]
    have hw := Memory.wf_write (x := off) (v := b) hm (by omega)
    rw [ih hw (by omega), Memory.read_writeBytes hw (by omega), if_neg (by omega), Memory.read_write hm, if_pos rfl]

/-! MemWrite (rule R52). -/

theorem memWrite1_wf {cap off : Nat} {m : Memory} {v : Byte} (hm : m.wf cap = true) (h : off < cap) :
    (memWrite1 m off v).wf cap = true :=
  Memory.wf_write hm h

theorem memWrite2_wf {cap off : Nat} {m : Memory} {v : BitVec 16} (hm : m.wf cap = true) (h : off + 2 ≤ cap) :
    (memWrite2 m off v).wf cap = true :=
  Memory.wf_writeBytes hm h

theorem read_memWrite1 {cap off y : Nat} {m : Memory} {v : Byte} (hm : m.wf cap = true) :
    (memWrite1 m off v).read y = if y = off then v else m.read y :=
  Memory.read_write hm

theorem read_memWrite2 {cap off y : Nat} {m : Memory} {v : BitVec 16} (hm : m.wf cap = true) (h : off + 2 ≤ cap) :
    (memWrite2 m off v).read y =
      if y = off then v.extractLsb' 0 8 else if y = off + 1 then v.extractLsb' 8 8 else m.read y := by
  have hr := Memory.read_writeBytes (bs := le16 v) (y := y) hm h
  rw [memWrite2, hr]
  by_cases h0 : y = off
  · subst h0; simp [le16, byteAt]
  · by_cases h1 : y = off + 1
    · subst h1; simp [le16, byteAt]
    · rw [if_neg h0, if_neg h1, if_neg (by simp [le16]; omega)]

/-! The telemetry slots (rule R140). -/

theorem writeSlots_wf {cap off : Nat} {m : Memory} {vs : List Slot} (hm : m.wf cap = true)
    (h : off + 2 * vs.length ≤ cap) : (writeSlots m off vs).wf cap = true := by
  induction vs generalizing m off with
  | nil => exact hm
  | cons v vs ih =>
    simp only [List.length_cons] at h
    exact ih (memWrite2_wf hm (by omega)) (by omega)

/-- The slots leave every byte outside them as it was. -/
theorem read_writeSlots_outside {cap off y : Nat} {m : Memory} {vs : List Slot} (hm : m.wf cap = true)
    (h : off + 2 * vs.length ≤ cap) (hy : y < off ∨ off + 2 * vs.length ≤ y) :
    (writeSlots m off vs).read y = m.read y := by
  induction vs generalizing m off with
  | nil => rfl
  | cons v vs ih =>
    simp only [List.length_cons] at h hy
    simp only [writeSlots]
    rw [ih (memWrite2_wf hm (by omega)) (by omega) (by omega), read_memWrite2 hm (by omega),
      if_neg (by omega), if_neg (by omega)]

/-- The bytes of the slots are the slots, low byte first. -/
theorem slice_writeSlots {cap off : Nat} {m : Memory} {vs : List Slot} (hm : m.wf cap = true)
    (h : off + 2 * vs.length ≤ cap) : (writeSlots m off vs).slice off (2 * vs.length) = vs.flatMap le16 := by
  induction vs generalizing m off with
  | nil => rfl
  | cons v vs ih =>
    simp only [List.length_cons] at h
    have hw := memWrite2_wf (v := v) (off := off) hm (by omega)
    have e : 2 * (v :: vs).length = (2 * vs.length + 1) + 1 := by simp only [List.length_cons]; omega
    rw [e]
    simp only [Memory.slice, writeSlots, List.flatMap_cons]
    rw [ih hw (by omega), read_writeSlots_outside hw (by omega) (by omega),
      read_writeSlots_outside hw (by omega) (by omega), read_memWrite2 hm (by omega), read_memWrite2 hm (by omega)]
    simp [le16]

/-- TLM_ENCODE keeps the canonical form of the transmit buffer. -/
theorem writeTelemetry_wf {m : Memory} {running : Bool} {slots : Vector Slot 13}
    (hm : m.wf Config.tlmLen = true) : (writeTelemetry m running slots).wf Config.tlmLen = true := by
  have hc : Config.tlmLen = 32 := rfl
  rw [hc] at hm ⊢
  have hb : (writeTelemetryBody m running slots).wf 32 = true := by
    apply writeSlots_wf _ (by simp)
    exact memWrite1_wf (memWrite1_wf (memWrite1_wf (memWrite1_wf hm (by omega)) (by omega)) (by omega)) (by omega)
  exact memWrite1_wf (memWrite1_wf hb (by omega)) (by omega)

end Sys2Proof.Machine
end

