-- ==== Sys2Proof/Laws/Exec.lean ====
section
/-! SUPPORT. What the shared operations of the meanings and of the step can answer. -/

namespace Sys2Proof.Machine

/-- The three ends of a field decoding's report (rule R102, log entry 17). -/
theorem reportField_cases (r : Except DecodeError (Field × Nat)) (s : State) :
    (∃ e, r = .error e ∧ reportField r s = .next (raiseError e s)) ∨
      (∃ f off, r = .ok (f, off) ∧ Config.rxCap < off ∧ reportField r s = .fault (.bufferOffset .rx (off - 1))) ∨
      ∃ f off, r = .ok (f, off) ∧ off ≤ Config.rxCap ∧ reportField r s = .next (s.withOut (.field f off)) := by
  rcases r with e | ⟨f, off⟩
  · exact .inl ⟨e, rfl, rfl⟩
  · by_cases h : Config.rxCap < off
    · exact .inr (.inl ⟨f, off, rfl, h, by simp [reportField, h]⟩)
    · exact .inr (.inr ⟨f, off, rfl, by omega, by simp [reportField, h]⟩)

/-- A field under a limit inside the buffer is reported, never a fault: the error or the field, on the output port
alone. -/
theorem reportField_boundField {o w lim : Nat} (h : lim ≤ Config.rxCap) (f : Field) (s : State) :
    reportField (boundField o w lim f) s =
      .next (s.withOut (if o + w ≤ lim then .field f (o + w) else .failed .truncated)) := by
  rcases boundField_cases o w lim f with ⟨h1, he⟩ | ⟨h1, he⟩
  · rw [he, if_neg (by omega)]; rfl
  · rw [he, if_pos h1]
    simp only [reportField]
    rw [if_neg (by omega)]

/-- Whatever a field decoding reports, a next state differs from the state before on the output port alone. -/
theorem reportField_next {r : Except DecodeError (Field × Nat)} {s t : State} (h : reportField r s = .next t) :
    ∃ o, t = s.withOut o := by
  rcases reportField_cases r s with ⟨e, -, he⟩ | ⟨f, off, -, -, he⟩ | ⟨f, off, -, -, he⟩ <;> rw [he] at h <;> cases h
  · exact ⟨_, rfl⟩
  · exact ⟨_, rfl⟩

/-- The two ends of RX_FRAME's decode (rules R126, R128 and R129). -/
theorem serveFrame_cases (len : Nat) (s : State) :
    (∃ g, decodeCommandFrame Config.checkTrailer (s.rx.slice 0 len) = .ok g ∧
        serveFrame len s = (commitGains g s).withOut (.status .ok)) ∨
      ∃ e, decodeCommandFrame Config.checkTrailer (s.rx.slice 0 len) = .error e ∧
        serveFrame len s = dropFrame e s := by
  unfold serveFrame
  cases h : decodeCommandFrame Config.checkTrailer (s.rx.slice 0 len) with
  | error e => exact .inr ⟨e, rfl, rfl⟩
  | ok g => exact .inl ⟨g, rfl, rfl⟩

/-- The frame RX_FRAME decodes is the frame handed over. -/
theorem handOver_slice {s : State} {b : List Byte} (hm : s.rx.wf Config.rxCap = true)
    (h : b.length ≤ Config.rxCap) : (s.handOver b).rx.slice 0 b.length = b :=
  Memory.slice_writeBytes hm (by omega)

/-- RX_FRAME completes for every frame the buffer holds. -/
theorem execRxFrame_next {b : List Byte} (h : b.length ≤ Config.rxCap) (s : State) :
    execRxFrame b s = .next (serveFrame b.length (s.handOver b)) := by
  unfold execRxFrame
  rw [if_neg (by omega)]

/-- A frame decoding reports on the output port alone. -/
theorem reportGains_eq (r : Except DecodeError GainSet) (s : State) :
    ∃ o, reportGains r s = s.withOut o := by
  cases r with
  | error e => exact ⟨_, rfl⟩
  | ok g => exact ⟨_, rfl⟩

/-- What a step that answers a next state has done: it served a request, or found nothing for the core to do. -/
theorem step_next {s t : State} (h : step s = .next t) :
    (∃ i s', fetch s = .run i s' ∧ exec i s' = .next t) ∨ fetch s = .quiet t := by
  unfold step at h
  split at h
  · rename_i i s' hf; exact .inl ⟨i, s', hf, h⟩
  · rename_i s' hf; cases h; exact .inr hf

/-- All that the next request can ask for: with which operation, and how the state it runs on differs from the state
before (rules R56, R60, R61 and R220). -/
theorem fetch_run {s s' : State} {i : Instr} (h : fetch s = .run i s') :
    (∃ rest, s.pending = .rst :: rest ∧ i = .reset ∧ s' = s.withPending rest) ∨
      (∃ sp bs rest tail, s.pending = .word sp bs :: rest ∧ decode sp bs = .ok (i, tail) ∧ s' = s.withPending rest) ∨
      ∃ rest, s.pending = .rxComplete :: rest ∧ s.link.overflow = false ∧ i = .rxFrame s.link.fill ∧
        s' = (s.withPending rest).withLink .empty := by
  unfold fetch at h
  split at h
  · cases h
  · rename_i rest hp; cases h; exact .inl ⟨rest, hp, rfl, rfl⟩
  · rename_i sp bs rest hp
    unfold fetchWord at h
    split at h
    · rename_i i' tail hd; cases h; exact .inr (.inl ⟨sp, bs, rest, tail, hp, hd, rfl⟩)
    · cases h
  · cases h
  · rename_i rest hp
    unfold completeFrame at h
    split at h
    · cases h
    · rename_i ho
      cases h
      exact .inr (.inr ⟨rest, hp, by simpa using ho, rfl, rfl⟩)

/-- What a request that asks no operation of the core changes: the waiting requests, the link layer and the output alone. -/
theorem fetch_quiet {s t : State} (h : fetch s = .quiet t) :
    ∃ q l o, t = ((s.withPending q).withLink l).withOut o ∧
      (l = s.link ∨ l = .empty ∨ ∃ b, l = s.link.arrive b) := by
  unfold fetch at h
  split at h
  · rename_i hp; cases h; exact ⟨[], s.link, s.out, by cases s; simp_all [State.withPending, State.withLink, State.withOut], .inl rfl⟩
  · cases h
  · rename_i sp bs rest hp
    unfold fetchWord at h
    split at h
    · cases h
    · rename_i why hd; cases h; exact ⟨rest, s.link, rejectOutput sp why, rfl, .inl rfl⟩
  · rename_i b rest hp; cases h; exact ⟨rest, _, s.out, rfl, .inr (.inr ⟨b, rfl⟩)⟩
  · rename_i rest hp
    unfold completeFrame at h
    split at h
    · cases h; exact ⟨rest, .empty, s.out, rfl, .inr (.inl rfl)⟩
    · cases h

end Sys2Proof.Machine
end

