-- ==== Sys2Proof/Laws/PerInstr.lean ====
section
/-! SUPPORT. A law of every operation as syntax: the encoding of a well-formed operation has at least one byte and no
more than the longest word (30_encoding.md rules R79, R80 and R85). One lemma per constructor. -/

namespace Sys2Proof.Laws.EncodedLength

open Sys2Proof Sys2Proof.Machine

/-- The encoding of this operation, where it has one, is between one byte and the longest word. -/
def Statement (i : Instr) : Prop :=
  i.wellFormed = true → ∀ sp bs, encode i = some (sp, bs) → 1 ≤ bs.length ∧ bs.length ≤ longestWord

theorem of_encode {i : Instr} {sp : Space} {bs : List Byte} (he : encode i = some (sp, bs))
    (h : i.wellFormed = true → 1 ≤ bs.length ∧ bs.length ≤ longestWord) : Statement i := by
  intro hw sp' bs' he'
  rw [he] at he'
  cases he'
  exact h hw

theorem of_none {i : Instr} (he : encode i = none) : Statement i := by
  intro _ _ _ h
  rw [he] at h
  cases h

theorem fldI16 (o lim : Nat) (r : BitVec 16) : Statement (.fldI16 o lim r) :=
  of_encode rfl fun _ => by simp [longestWord, Config.rxCap]

theorem fldU16 (o lim : Nat) (r : BitVec 16) : Statement (.fldU16 o lim r) :=
  of_encode rfl fun _ => by simp [longestWord, Config.rxCap]

theorem fldI32 (o lim : Nat) (r : BitVec 32) : Statement (.fldI32 o lim r) :=
  of_encode rfl fun _ => by simp [longestWord, Config.rxCap]

theorem fldU32 (o lim : Nat) (r : BitVec 32) : Statement (.fldU32 o lim r) :=
  of_encode rfl fun _ => by simp [longestWord, Config.rxCap]

theorem fldF32 (o lim : Nat) (r : BitVec 32) : Statement (.fldF32 o lim r) :=
  of_encode rfl fun _ => by simp [longestWord, Config.rxCap]

theorem fldU8 (o lim : Nat) (r : BitVec 8) : Statement (.fldU8 o lim r) :=
  of_encode rfl fun _ => by simp [longestWord, Config.rxCap]

theorem fldInvalid (t : Byte) : Statement (.fldInvalid t) :=
  of_encode rfl fun _ => by simp [longestWord, Config.rxCap]

theorem cmdFrame (g : GainSet) : Statement (.cmdFrame g) := by
  refine of_encode rfl fun _ => ?_
  simp [sealFrame, commandBody, longestWord, Config.rxCap]

theorem tlmFrame (b : Bool) (v : Vector Slot 13) : Statement (.tlmFrame b v) := by
  refine of_encode rfl fun _ => ?_
  simp [sealFrame, telemetryBody, longestWord, Config.rxCap]

theorem init : Statement .init :=
  of_encode rfl fun _ => by decide

theorem rxFrame (f : List Byte) : Statement (.rxFrame f) := by
  refine of_encode rfl fun hw => ?_
  simp only [Instr.wellFormed, decide_eq_true_eq] at hw
  simp only [List.length_cons, longestWord]
  omega

theorem ctrlTick (f : Vector I32 4) (t : Vector F32 3) : Statement (.ctrlTick f t) := by
  refine of_encode rfl fun _ => ?_
  simp [longestWord, Config.rxCap]

theorem tlmTick (p o : Vector I32 3) : Statement (.tlmTick p o) := by
  refine of_encode rfl fun _ => ?_
  simp [longestWord, Config.rxCap]

theorem opReserved (o : BitVec 3) : Statement (.opReserved o) :=
  of_encode rfl fun _ => by simp [longestWord, Config.rxCap]

theorem reset : Statement .reset :=
  of_none rfl

theorem xor8 (b : Buf) (lo hi : Nat) : Statement (.xor8 b lo hi) :=
  of_none rfl

theorem width (t : Byte) : Statement (.width t) :=
  of_none rfl

theorem fldDecode (o : Nat) (t : Byte) (lim : Nat) : Statement (.fldDecode o t lim) :=
  of_none rfl

theorem cmdDecode (n : Nat) : Statement (.cmdDecode n) :=
  of_none rfl

theorem commit (g : GainSet) : Statement (.commit g) :=
  of_none rfl

theorem tlmEncode : Statement .tlmEncode :=
  of_none rfl

theorem clamp (x lo hi : F32) : Statement (.clamp x lo hi) :=
  of_none rfl

theorem pidTick (a : Fin 7) (f t : F32) : Statement (.pidTick a f t) :=
  of_none rfl

theorem i2f (i : I32) : Statement (.i2f i) :=
  of_none rfl

theorem f2i (x : F32) : Statement (.f2i x) :=
  of_none rfl

theorem tdiv (n : Int) (d : Nat) : Statement (.tdiv n d) :=
  of_none rfl

theorem mixFwd (m : Vector I32 4) : Statement (.mixFwd m) :=
  of_none rfl

theorem mixInv (v : Vector F32 3) : Statement (.mixInv v) :=
  of_none rfl

end Sys2Proof.Laws.EncodedLength
end

