-- ==== Sys2Proof/Laws/Rounding.lean ====
section
/-! SUPPORT. What the rounding function answers: the nearest representable magnitude, ties to even, an infinity on
overflow. -/

namespace Sys2Proof.Machine

/-- The magnitude, in units of `2^-149`, that the low 31 bits `p` of a finite pattern stand for. -/
def unitsOfLow (p : Nat) : Nat :=
  if p / 2 ^ 23 = 0 then p % 2 ^ 23 else (p % 2 ^ 23 + 2 ^ 23) * 2 ^ (p / 2 ^ 23 - 1)

theorem funits_fpack {neg : Bool} {p : Nat} (h : p < 2 ^ 31) : funits (fpack neg p) = unitsOfLow p := by
  rw [funits, fexp_fpack h, ffrac_fpack h, unitsOfLow]

/-- A finite magnitude is a significand below `2^24` times a power of two. -/
theorem funits_representable (x : F32) : ∃ a i, a < 2 ^ 24 ∧ funits x = a * 2 ^ i := by
  have := ffrac_lt x
  unfold funits
  split
  · exact ⟨ffrac x, 0, by omega, by simp⟩
  · exact ⟨ffrac x + 2 ^ 23, fexp x - 1, by omega, rfl⟩

/-- Significand `r` at exponent `j` as a pattern; a carry to `2^24` moves the exponent up. -/
theorem unitsOfLow_scaled {r j : Nat} (hr : r ≤ 2 ^ 24) (hj : j = 0 ∨ 2 ^ 23 ≤ r) :
    unitsOfLow (r + j * 2 ^ 23) = r * 2 ^ j := by
  unfold unitsOfLow
  by_cases h1 : r < 2 ^ 23
  · have : j = 0 := by omega
    subst this
    rw [if_pos (by omega)]; omega
  · rw [if_neg (by omega)]
    by_cases h2 : r = 2 ^ 24
    · subst h2
      have e1 : (2 ^ 24 + j * 2 ^ 23) % 2 ^ 23 = 0 := by omega
      have e2 : (2 ^ 24 + j * 2 ^ 23) / 2 ^ 23 - 1 = j + 1 := by omega
      rw [e1, e2, Nat.pow_succ]; omega
    · have e1 : (r + j * 2 ^ 23) % 2 ^ 23 + 2 ^ 23 = r := by omega
      have e2 : (r + j * 2 ^ 23) / 2 ^ 23 - 1 = j := by omega
      rw [e1, e2]

/-- The exponent and the significand the rounding function works with. -/
theorem round_shape (m k : Nat) :
    let t := max k (m.log2 - 23)
    roundShift m t ≤ 2 ^ 24 ∧ (t - k = 0 ∨ (2 ^ 23 ≤ roundShift m t ∧ 2 ^ 23 * 2 ^ t ≤ m)) := by
  intro t
  have hp := Nat.two_pow_pos t
  have hm : m < 2 ^ (m.log2 + 1) := Nat.lt_log2_self
  have hlt : m < 2 ^ 24 * 2 ^ t := by
    rw [← Nat.pow_add]
    exact hm.trans_le (Nat.pow_le_pow_right (by omega) (by omega))
  have hq : m / 2 ^ t < 2 ^ 24 := (Nat.div_lt_iff_lt_mul hp).mpr hlt
  refine ⟨by simp only [roundShift]; split <;> omega, ?_⟩
  by_cases hk : t = k
  · exact .inl (by omega)
  · right
    have ht : t = m.log2 - 23 := by omega
    have h23 : m.log2 = t + 23 := by omega
    have hm0 : m ≠ 0 := by
      rintro rfl
      simp at h23
    have hle : 2 ^ 23 * 2 ^ t ≤ m := by
      rw [← Nat.pow_add, Nat.add_comm, ← h23]
      exact Nat.log2_self_le hm0
    have hq2 : 2 ^ 23 ≤ m / 2 ^ t := (Nat.le_div_iff_mul_le hp).mpr hle
    exact ⟨by simp only [roundShift]; split <;> omega, hle⟩

/-- All that the rounding function can do (rules R156 and R157): an infinity where the magnitude reaches half a
spacing above the largest finite value; otherwise a finite pattern no farther from the exact magnitude than any
significand of 24 bits at any exponent, with an even fraction where another is as near. -/
theorem roundUnits_spec (m k : Nat) :
    (m < (2 ^ 25 - 1) * 2 ^ (252 + k) →
      roundUnits m k < 0x7F800000 ∧
        ∀ a i, a < 2 ^ 24 →
          |(m : Int) - (unitsOfLow (roundUnits m k) * 2 ^ k : Nat)| ≤ |(m : Int) - (a * 2 ^ i * 2 ^ k : Nat)| ∧
            (|(m : Int) - (unitsOfLow (roundUnits m k) * 2 ^ k : Nat)| = |(m : Int) - (a * 2 ^ i * 2 ^ k : Nat)| →
              a * 2 ^ i ≠ unitsOfLow (roundUnits m k) → roundUnits m k % 2 = 0)) ∧
      ((2 ^ 25 - 1) * 2 ^ (252 + k) ≤ m → roundUnits m k = 0x7F800000) := by
  obtain ⟨hR, hj⟩ := round_shape m k
  have hbd := two_mul_roundShift m (max k (m.log2 - 23))
  have htie := @roundShift_tie m (max k (m.log2 - 23))
  have htk : k ≤ max k (m.log2 - 23) := le_max_left _ _
  simp only [roundUnits]
  generalize ht : max k (m.log2 - 23) = t at *
  generalize hRR : roundShift m t = R at *
  have hU := unitsOfLow_scaled (r := R) (j := t - k) hR (hj.imp id And.left)
  have hU' : unitsOfLow (R + (t - k) * 2 ^ 23) * 2 ^ k = R * 2 ^ t := by
    rw [hU, Nat.mul_assoc, ← Nat.pow_add, Nat.sub_add_cancel htk]
  -- the infinity test is the overflow bound
  have hover : 0x7F800000 ≤ R + (t - k) * 2 ^ 23 ↔ (2 ^ 25 - 1) * 2 ^ (252 + k) ≤ m := by
    have e253 : ∀ c, t = 253 + k + c → 2 ^ t = 2 * 2 ^ (252 + k) * 2 ^ c := by
      intro c hc
      rw [hc, show 253 + k + c = 1 + (252 + k) + c by omega, Nat.pow_add, Nat.pow_add]
    constructor
    · intro hp
      by_cases h3 : t = 253 + k
      · have hR' : R = 2 ^ 24 := by omega
        have := e253 0 (by omega)
        subst hR'
        omega
      · have h4 : 253 + k + 1 ≤ t := by omega
        have hle : 2 ^ (253 + k + 1) ≤ 2 ^ t := Nat.pow_le_pow_right (by omega) h4
        rw [show 253 + k + 1 = 2 + (252 + k) by omega, Nat.pow_add] at hle
        have := (hj.resolve_left (by omega)).2
        omega
    · intro hm
      have ht253 : 253 + k ≤ t := by
        by_contra hcon
        have hle : 2 ^ t ≤ 2 ^ (252 + k) := Nat.pow_le_pow_right (by omega) (by omega)
        have hRt : R * 2 ^ t ≤ 2 ^ 24 * 2 ^ t := Nat.mul_le_mul_right _ hR
        have := Nat.two_pow_pos (252 + k)
        omega
      have hR23 := (hj.resolve_left (by omega)).1
      by_cases h3 : t = 253 + k
      · have h2 := e253 0 (by omega)
        have hR' : R = 2 ^ 24 := by
          by_contra hne
          have hRt : R * 2 ^ t ≤ (2 ^ 24 - 1) * 2 ^ t := Nat.mul_le_mul_right _ (by omega)
          have hpos := Nat.two_pow_pos t
          have heq : R * 2 ^ t = (2 ^ 24 - 1) * 2 ^ t := by omega
          have hRe : R = 2 ^ 24 - 1 := Nat.eq_of_mul_eq_mul_right hpos heq
          have := htie (.inl (by omega))
          omega
        omega
      · omega
  constructor
  · intro hm
    have hfin : ¬ 0x7F800000 ≤ R + (t - k) * 2 ^ 23 := by rw [hover]; omega
    rw [if_neg hfin, hU']
    refine ⟨by omega, fun a i ha => ?_⟩
    have hpar : (R + (t - k) * 2 ^ 23) % 2 = R % 2 := by omega
    rw [hpar]
    have hpos := Nat.two_pow_pos t
    by_cases hi : t ≤ i + k
    · -- the other value is a multiple of the spacing too
      have hA : a * 2 ^ i * 2 ^ k = a * 2 ^ (i + k - t) * 2 ^ t := by
        rw [Nat.mul_assoc, ← Nat.pow_add, Nat.mul_assoc, ← Nat.pow_add, Nat.sub_add_cancel hi]
      rw [hA]
      generalize a * 2 ^ (i + k - t) = A at hA ⊢
      rcases Nat.lt_trichotomy A R with h | h | h
      · have : (A + 1) * 2 ^ t ≤ R * 2 ^ t := Nat.mul_le_mul_right _ h
        rw [Nat.add_mul] at this
        generalize A * 2 ^ t = X at *
        generalize R * 2 ^ t = Y at *
        have hx := abs_cases ((m : Int) - (X : Nat))
        have hy := abs_cases ((m : Int) - (Y : Nat))
        refine ⟨by omega, fun he _ => htie (by omega)⟩
      · subst h
        refine ⟨le_refl _, fun _ hne => absurd ?_ hne⟩
        exact Nat.eq_of_mul_eq_mul_right (Nat.two_pow_pos k) (hA.trans hU'.symm)
      · have : (R + 1) * 2 ^ t ≤ A * 2 ^ t := Nat.mul_le_mul_right _ h
        rw [Nat.add_mul] at this
        generalize A * 2 ^ t = X at *
        generalize R * 2 ^ t = Y at *
        have hx := abs_cases ((m : Int) - (X : Nat))
        have hy := abs_cases ((m : Int) - (Y : Nat))
        refine ⟨by omega, fun he _ => htie (by omega)⟩
    · -- the other value lies below every significand of this spacing
      have hbig := hj.resolve_left (by omega)
      have hD : 2 * (a * 2 ^ i * 2 ^ k) + 2 ^ t ≤ 2 ^ 24 * 2 ^ t := by
        have h1 : 2 ^ i * 2 ^ k * 2 ≤ 2 ^ t := by
          rw [← Nat.pow_add, ← Nat.pow_succ]
          exact Nat.pow_le_pow_right (by omega) (by omega)
        have h2 : a * (2 ^ i * 2 ^ k * 2) ≤ a * 2 ^ t := Nat.mul_le_mul_left _ h1
        have h3 : (a + 1) * 2 ^ t ≤ 2 ^ 24 * 2 ^ t := Nat.mul_le_mul_right _ ha
        rw [Nat.add_mul] at h3
        rw [← Nat.mul_assoc, ← Nat.mul_assoc] at h2
        omega
      have hY : 2 ^ 23 * 2 ^ t ≤ R * 2 ^ t := Nat.mul_le_mul_right _ hbig.1
      generalize a * 2 ^ i * 2 ^ k = X at *
      have hup : R * 2 ^ t ≤ m ∨ 2 ^ 23 * 2 ^ t + 2 ^ t ≤ R * 2 ^ t := by
        by_cases hR23 : R = 2 ^ 23
        · left; rw [hR23]; exact hbig.2
        · right
          have : (2 ^ 23 + 1) * 2 ^ t ≤ R * 2 ^ t := Nat.mul_le_mul_right _ (by omega)
          rwa [Nat.add_mul, Nat.one_mul] at this
      generalize R * 2 ^ t = Y at *
      have hx := abs_cases ((m : Int) - (X : Nat))
      have hy := abs_cases ((m : Int) - (Y : Nat))
      exact ⟨by omega, fun he _ => by omega⟩
  · intro hm
    rw [if_pos (hover.mpr hm)]

end Sys2Proof.Machine
end

