-- ==== Sys2Proof/Tests/Slice0.lean ====
section
/-! SUPPORT. Tests. Expected values are those of 95_test_vectors.md (the ids V1 to V27, S1 to S9, P1 to P5 in the names and
comments) or words written out by hand from 30_encoding.md. First the smoke test of WellFormed, then decoding, then one or
two small tests per operation, then for every statement with hypotheses a case that meets them all. -/

namespace Sys2Proof.Tests

open Sys2Proof Sys2Proof.Machine

/-! Helpers. -/

def nextOf (r : Result) : Option State :=
  match r with
  | .next t => some t
  | .fault _ => none
  | .refused _ => none

def outOf (r : Result) : Option Output :=
  (nextOf r).map State.out

def faultOf (r : Result) : Option Fault :=
  match r with
  | .next _ => none
  | .fault f => some f
  | .refused _ => none

def refusalOf (r : Result) : Option Refusal :=
  match r with
  | .next _ => none
  | .fault _ => none
  | .refused f => some f

def runs (d : Decoded) : Option Instr :=
  match d with
  | .ok (i, _) => some i
  | .error _ => none

def rejects (d : Decoded) : Option Reject :=
  match d with
  | .ok _ => none
  | .error e => some e

/-- The fields 1.0, 500.0 and 2000.0 on the wire. -/
def oneField : List Byte := [0x04, 0x00, 0x00, 0x80, 0x3F]

def quintuple : List Byte :=
  oneField ++ oneField ++ oneField ++ [0x04, 0x00, 0x00, 0xFA, 0x43, 0x04, 0x00, 0x00, 0xFA, 0x44]

/-- CANON of 95_test_vectors.md. -/
def canon : List Byte :=
  [0xAA, 0x55, 0x0A] ++ quintuple ++ quintuple ++ [0xF5, 0x5D]

def canonGains : GainSet :=
  #v[0x3F800000, 0x3F800000, 0x3F800000, 0x43FA0000, 0x44FA0000,
    0x3F800000, 0x3F800000, 0x3F800000, 0x43FA0000, 0x44FA0000]

/-- The gain set of CUSTOM (V13u). -/
def customGains : GainSet :=
  #v[0x40000000, 0x3F000000, 0x3E800000, 0x42C80000, 0x447A0000,
    0x3FC00000, 0x3DCCCCCD, 0x00000000, 0x42480000, 0x42C80000]

/-- The state after RESET and INIT. -/
def ready : State := { State.reset with initialized := true }

/-- A state with both flags set, values in the registers and CANON in the receive buffer. -/
def busy : State :=
  { ready with
    running := true
    cmd := #v[100, -100, 2000, -2000]
    vel := #v[40000, -1, 32768]
    pose := #v[-32769, 65536, 1]
    ori := #v[2147483647, -2147483648, 12345]
    rx := Memory.writeBytes [] 0 canon
    tx := [(0, 0x11), (31, 0x22)] }

def waiting (p : List Request) : State := { busy with pending := p }

def floatField (v : BitVec 32) : FieldType × BitVec 32 := (.float32, v)

def tenFloats : List (FieldType × BitVec 32) := List.replicate 10 (floatField 0x3F800000)

/-! WellFormed refuses a term for each of its checks. -/

theorem test_wf_refuses_field_without_tag : (Instr.fldI16 0 53 0).wellFormed = false := by decide
theorem test_wf_refuses_limit_in_checksum : (Instr.fldU8 4 54 0).wellFormed = false := by decide
theorem test_wf_refuses_each_field_row :
    (Instr.fldU16 0 53 0).wellFormed = false ∧ (Instr.fldI32 0 53 0).wellFormed = false ∧
      (Instr.fldU32 4 54 0).wellFormed = false ∧ (Instr.fldF32 4 54 0).wellFormed = false ∧
      (Instr.fldDecode 4 0 54).wellFormed = false := by decide
theorem test_wf_refuses_valid_tag_as_invalid : (Instr.fldInvalid 5).wellFormed = false := by decide
theorem test_wf_refuses_overlong_frame : (Instr.rxFrame (List.replicate 56 0)).wellFormed = false := by decide
theorem test_wf_refuses_assigned_op : (Instr.opReserved 4).wellFormed = false := by decide
theorem test_wf_refuses_reversed_range : (Instr.xor8 .rx 2 1).wellFormed = false := by decide
theorem test_wf_refuses_range_outside : (Instr.xor8 .tx 0 33).wellFormed = false := by decide
theorem test_wf_refuses_long_decode : (Instr.cmdDecode 56).wellFormed = false := by decide
theorem test_wf_refuses_zero_divisor : (Instr.tdiv 1 0).wellFormed = false := by decide

/-! Decoding of words written out from 30_encoding.md. -/

theorem test_decode_fields :
    decodeTableWord 24 0x63C000 = some (.fldI16 4 53 0x63C0) ∧ decodeTableWord 24 0x9C4001 = some (.fldU16 4 53 0x9C40) ∧
      decodeTableWord 40 0xFFFFFFFE02 = some (.fldI32 4 53 0xFFFFFFFE) ∧
      decodeTableWord 40 0x1234567803 = some (.fldU32 4 53 0x12345678) ∧
      decodeTableWord 40 0x43FA000004 = some (.fldF32 4 53 0x43FA0000) ∧
      decodeTableWord 16 0x2A05 = some (.fldU8 4 53 42) ∧ decodeTableWord 8 0x84 = some (.fldInvalid 0x84) := by decide

theorem test_decode_ops :
    decodeTableWord 8 1 = some .init ∧ decodeTableWord 8 2 = some (.rxFrame []) ∧
      decodeTableWord 8 3 = some (.ctrlTick #v[0, 0, 0, 0] #v[0, 0, 0]) ∧
      decodeTableWord 8 4 = some (.tlmTick #v[0, 0, 0] #v[0, 0, 0]) ∧
      runs (decode .op [0x00]) = some (.opReserved 0) ∧ runs (decode .op [0x07]) = some (.opReserved 7) := by decide

theorem test_decode_frames :
    runs (decode .command canon) = some (.cmdFrame canonGains) ∧
      runs (decode .telemetry ([0xAA, 0x55, 0x20, 0x00] ++ List.replicate 26 0x00 ++ [0xDF, 0x5D])) =
        some (.tlmFrame false (Vector.replicate 13 0)) := by decide

theorem test_decode_rx_request :
    runs (decode .op [0x02, 0x03, 0xAA, 0x55, 0x0A]) = some (.rxFrame [0xAA, 0x55, 0x0A]) := by decide

theorem test_decode_ctrl_request :
    runs (decode .op ([0x03, 0x0A, 0x00, 0x00, 0x00, 0xEC, 0xFF, 0xFF, 0xFF] ++ List.replicate 8 0x00 ++
      [0x00, 0x00, 0xF0, 0x41] ++ List.replicate 8 0x00)) =
      some (.ctrlTick #v[10, -20, 0, 0] #v[0x41F00000, 0, 0]) := by decide

theorem test_decode_tlm_request :
    runs (decode .op ([0x04, 0x70, 0x11, 0x01, 0x00] ++ List.replicate 16 0x00 ++ [0xFF, 0xFF, 0xFF, 0xFF])) =
      some (.tlmTick #v[70000, 0, 0] #v[0, 0, -1]) := by decide

theorem test_decode_refuses :
    rejects (decode .op []) = some .noBytes ∧ rejects (decode .op [0x09]) = some .selectorHighBits ∧
      rejects (decode .op [0x03, 0x00]) = some .operandsMissing ∧ rejects (decode .op [0x02, 0x38]) = some .overlongFrame ∧
      rejects (decode .command [0xAA]) = some (.notCommandFrame .badHeader) ∧
      rejects (decode .telemetry canon) = some .notTelemetryFrame := by decide

theorem test_step_runs_the_placed_word :
    (nextOf (step (State.reset.withFetchWord 8 1))).map State.initialized = some true := by decide

/-- A command frame with a wrong checksum (V13e), a field cut short, an undecodable selector: the run goes on. -/
theorem test_step_serves_words_that_encode_nothing :
    outOf (step { State.reset with pending := [.word .command (canon.set 53 0x75)] }) = some (.failed .checksumMismatch) ∧
      outOf (step { State.reset with pending := [.word (.field 4 53) [0x04, 0x00]] }) = some (.failed .truncated) ∧
      outOf (step { State.reset with pending := [.word .op [0x09]] }) = some .none := by decide

/-! FieldCodec: V6b, V6a, V7a, V8, V8a, V9, V10b, V11, V11a, V12a to V12c. -/

theorem test_fldI16 : outOf (exec (.fldI16 4 6 0xFFFF) .reset) = some (.field (.int16 (-1)) 6) ∧
    outOf (exec (.fldI16 4 53 0x8000) .reset) = some (.field (.int16 (-32768)) 6) := by decide
theorem test_fldU16 : outOf (exec (.fldU16 4 6 0xFFFF) .reset) = some (.field (.uint16 65535) 6) ∧
    outOf (exec (.fldU16 4 5 0) .reset) = some (.failed .truncated) := by decide
theorem test_fldI32 : outOf (exec (.fldI32 4 8 0xFFFFFFFE) .reset) = some (.field (.int32 (-2)) 8) ∧
    outOf (exec (.fldI32 4 8 0x80000000) .reset) = some (.field (.int32 (-2147483648)) 8) := by decide
theorem test_fldU32 : outOf (exec (.fldU32 4 8 0xFFFFFFFF) .reset) = some (.field (.uint32 4294967295) 8) := by decide
theorem test_fldF32 : outOf (exec (.fldF32 4 8 0x7FC00001) .reset) = some (.field (.float32 0x7FC00001) 8) ∧
    outOf (exec (.fldF32 4 7 0x3F800000) .reset) = some (.failed .truncated) := by decide
theorem test_fldU8 : outOf (exec (.fldU8 4 5 0xFF) .reset) = some (.field (.uint8 255) 5) ∧
    outOf (exec (.fldU8 4 4 7) .reset) = some (.failed .truncated) := by decide
theorem test_fldInvalid : outOf (exec (.fldInvalid 0x06) .reset) = some (.failed .unknownFieldType) := by decide
/-- V4 and V5. -/
theorem test_xor8 : outOf (exec (.xor8 .rx 0 53) busy) = some (.byte 0xF5) ∧
    outOf (exec (.xor8 .rx 0 54) busy) = some (.byte 0x00) := by decide
theorem test_width : outOf (exec (.width 0x02) .reset) = some (.width (some 4)) ∧
    outOf (exec (.width 0x84) .reset) = some (.width none) := by decide
/-- The fourth value of CANON, at offset 19, is 500.0; the unknown tag beats the missing value (V13k). -/
theorem test_fldDecode : outOf (exec (.fldDecode 19 0x04 53) busy) = some (.field (.float32 0x43FA0000) 23) ∧
    outOf (exec (.fldDecode 4 0xFF 4) busy) = some (.failed .unknownFieldType) := by decide

/-! FrameDecoder. -/

theorem test_cmdFrame : outOf (exec (.cmdFrame customGains) .reset) = some (.gains customGains) := by decide
/-- S1, and CANON cut to nine bytes: the last byte is no trailer. -/
theorem test_cmdDecode : outOf (exec (.cmdDecode 55) busy) = some (.gains canonGains) ∧
    outOf (exec (.cmdDecode 9) busy) = some (.failed .badHeader) := by decide
/-- V13g to V13j, V13l, V13n, V13o, V13p, V13s. -/
theorem test_rxFrame_errors :
    [[0xAA, 0x55, 0x00, 0xFF, 0x5D], [0xAA, 0x55, 0x01, 0xFE, 0x5D], [0xAA, 0x55, 0x01, 0x04, 0x00, 0x00, 0x80, 0x7A, 0x5D],
      [0xAA, 0x55, 0x01, 0x06, 0x00, 0x00, 0x80, 0x3F, 0x47, 0x5D], [0xAA, 0x55, 0x02, 0x00, 0x01, 0x00, 0x06, 0xFA, 0x5D],
      (canon.set 2 0x0B).set 53 0xF4, [0xAA, 0x55, 0x0A, 0x04, 0x00, 0x00, 0x80, 0x3F, 0x4E, 0x5D], canon.set 53 0x75,
      canon.set 54 0x5C].map (fun f => outOf (exec (.rxFrame f) .reset)) =
    [.malformedPayload, .truncated, .truncated, .unknownFieldType, .unknownFieldType, .truncated, .truncated,
      .checksumMismatch, .badHeader].map (fun e => some (Output.status (.err e))) := by decide
/-- V13. -/
theorem test_rxFrame_commits : (nextOf (exec (.rxFrame canon) .reset)).map (fun t => (t.out, t.running, t.pid[6].outMax)) =
    some (.status .ok, true, 0x44FA0000) := by decide
theorem test_commit : (nextOf (exec (.commit customGains) .reset)).map (fun t => (t.running, t.pid[2].kd, t.pid[3].kp)) =
    some (true, 0x3E800000, 0x3FC00000) := by decide

/-! FrameEncoder: V15, P1, V14. -/

theorem test_tlmEncode : outOf (exec .tlmEncode busy) = some (.frame
    [0xAA, 0x55, 0x20, 0x01, 0x64, 0x00, 0x9C, 0xFF, 0xD0, 0x07, 0x30, 0xF8, 0x40, 0x9C, 0xFF, 0xFF, 0x00, 0x80, 0xFF, 0x7F,
      0x00, 0x00, 0x01, 0x00, 0xFF, 0xFF, 0x00, 0x00, 0x39, 0x30, 0x12, 0x5D]) := by decide
theorem test_tlmTick : outOf (exec (.tlmTick #v[1, 2, 3] #v[-1, -2, -3])
      { State.reset with cmd := #v[15, -15, -45, -75], vel := #v[25, 0, 5] }) = some (.sent
    [0xAA, 0x55, 0x20, 0x00, 0x0F, 0x00, 0xF1, 0xFF, 0xD3, 0xFF, 0xB5, 0xFF, 0x19, 0x00, 0x00, 0x00, 0x05, 0x00, 0x01, 0x00,
      0x02, 0x00, 0x03, 0x00, 0xFF, 0xFF, 0xFE, 0xFF, 0xFD, 0xFF, 0xA7, 0x5D]) := by decide
theorem test_tlmFrame : outOf (exec (.tlmFrame false (Vector.replicate 13 0)) busy) = some (.frame
    ([0xAA, 0x55, 0x20, 0x00] ++ List.replicate 26 0x00 ++ [0xDF, 0x5D])) := by decide

/-! Arithmetic. -/

/-- V22: the crossed limits and -0.0. -/
theorem test_clamp : outOf (exec (.clamp 0x40E00000 0x40A00000 0xC0A00000) .reset) = some (.float 0xC0A00000) ∧
    outOf (exec (.clamp 0x80000000 0xC0A00000 0x40A00000) .reset) = some (.float 0x80000000) := by decide +kernel
/-- V20, the first tick. -/
theorem test_pidTick_rounds : (pidCompute 0 { PidState.reset with kp := 0x3DCCCCCD, ki := 0x3DCCCCCD, kd := 0x3DCCCCCD }
    0x3E99999A 0x3F800000).out = 0x3E570A3E := by decide +kernel
/-- V18, the first tick. -/
theorem test_pidTick_clamps : (nextOf (exec (.pidTick 4 0x00000000 0x453B8000) .reset)).map
    (fun t => (t.out, t.pid[4].integralAccum, t.pid[4].lastOutput)) =
    some (.float 0x44FA0000, 0x453B8000, 0x44FA0000) := by decide +kernel
/-- V26a and V26d. -/
theorem test_i2f : outOf (exec (.i2f 16777217) .reset) = some (.float 0x4B800000) ∧
    outOf (exec (.i2f (-2147483648)) .reset) = some (.float 0xCF000000) := by decide +kernel
/-- V27a and V27c. -/
theorem test_f2i : outOf (exec (.f2i 0xC0300000) .reset) = some (.int (-2)) ∧
    outOf (exec (.f2i 0xCF000000) .reset) = some (.int (-2147483648)) := by decide +kernel
theorem test_tdiv : outOf (exec (.tdiv (-7) 4) .reset) = some (.integer (-1)) := by decide
/-- V24i and V24l. -/
theorem test_mixFwd : outOf (exec (.mixFwd #v[-7, -7, -7, -6]) .reset) = some (.body #v[-6, 0, 0]) ∧
    outOf (exec (.mixFwd (Vector.replicate 4 (-2147483648))) .reset) = some (.body #v[-2147483648, 0, 0]) := by decide
/-- V25d. -/
theorem test_mixInv : outOf (exec (.mixInv #v[0x3DCCCCCD, 0x3E4CCCCD, 0x3E99999A]) .reset) =
    some (.motors #v[0xBECCCCCD, 0x3F19999A, 0x00000000, 0x3E4CCCCE]) := by decide +kernel

/-! Lifecycle and control. -/

theorem test_init : (nextOf (exec .init .reset)).map State.initialized = some true := by decide
/-- P1, the first control tick. -/
theorem test_ctrlTick : outOf (exec (.ctrlTick #v[10, 20, 30, 40] #v[0x41F00000, 0, 0x40A00000]) ready) =
    some (.command #v[15, -15, -45, -75] true) := by decide +kernel
/-- P3, before INIT. -/
theorem test_ctrlTick_ungated : (nextOf (exec (.ctrlTick #v[100, 100, 100, 100] #v[0x42480000, 0, 0]) .reset)).map
    (fun t => (t.out, t.vel)) = some (.command #v[0, 0, 0, 0] false, #v[100, 0, 0]) := by decide
/-- P5 under `pid_tick`: the commit lands between axis 2 and axis 3. -/
theorem test_ctrlTick_landing : (controlTickLanding (noLanding.set 3 (some customGains)) #v[0, 0, 0, 0]
    #v[0x41200000, 0, 0] ready).cmd = #v[48, 48, 48, 48] := by decide +kernel
theorem test_opReserved : nextOf (exec (.opReserved 6) busy) = some { busy with out := .none } := by decide
theorem test_reset : (nextOf (exec .reset busy)).map (fun t => (t.running, t.initialized, t.cmd)) =
    some (false, false, #v[0, 0, 0, 0]) := by decide

/-! Cases that meet the hypotheses of the statements. -/

theorem witness_StepServesTheFirstRequest :
    (waiting []).pending = [] ∧ (waiting [.rst]).pending = .rst :: [] ∧
      (decode .op [0x01] = .ok (.init, []) ∧ Instr.init.wellFormed = true) ∧
      (decodeCommandFrame true [0xAA] = .error .badHeader ∧ decode (.field 4 53) [0x05] = .error .operandsMissing) ∧
      (decode .op [] = .error .noBytes ∧ decode .telemetry [0xAA] = .error .notTelemetryFrame) ∧
      ((waiting [.rxComplete]).pending = .rxComplete :: [] ∧ (waiting [.rxComplete]).link.overflow = false) ∧
      ({ waiting [.rxComplete] with link := ⟨[], true⟩ }).link.overflow = true := by decide

theorem witness_FieldRowsDecodeFromTheirEncoding :
    (isFieldRow (.fldI16 1 53 0x8000) = true ∧ (Instr.fldI16 1 53 0x8000).wellFormed = true ∧
      encode (.fldI16 1 53 0x8000) = some (.field 1 53, [0x00, 0x00, 0x80])) ∧
    isFieldRow (.fldInvalid 6) = true ∧ (Instr.fldInvalid 6).wellFormed = true ∧
      encode (.fldInvalid 6) = some (.field 4 53, [0x06]) := by decide

theorem witness_PortRequestsDecodeFromTheirEncoding :
    isPortOperation (.rxFrame canon) = true ∧ (Instr.rxFrame canon).wellFormed = true ∧
      encode (.rxFrame canon) = some (.op, 0x02 :: 0x37 :: canon) := by decide

theorem witness_DecodedWordsAreEncodings :
    decode .op [0x01, 0xFF] = .ok (.init, [0xFF]) ∧ decode (.field 4 53) [0x05, 0x2A] = .ok (.fldU8 4 53 0x2A, []) ∧
      decode .command canon = .ok (.cmdFrame canonGains, []) ∧
      decode .telemetry ([0xAA, 0x55, 0x20, 0x01] ++ List.replicate 26 0x00 ++ [0xDE, 0x5D]) =
        .ok (.tlmFrame true (Vector.replicate 13 0), []) := by
  decide

theorem witness_XorOfLongerRange : 0 ≤ 54 ∧ 54 ≤ Buf.rx.capacity ∧ 54 < Buf.rx.capacity ∧ 55 ≤ Buf.rx.capacity := by decide

theorem witness_IntegerFieldValues : 1 ≤ 1 ∧ 53 + 2 ≤ 55 ∧ 1 + 4 ≤ 53 ∧ ¬ 50 + 4 ≤ 53 ∧ 49 + 4 ≤ 53 := by decide

theorem witness_SignedAndFloatFieldValues : 1 ≤ 1 ∧ 53 + 2 ≤ 55 ∧ 6 ≤ (0x06 : Byte).toNat ∧ 6 ≤ (0xFF : Byte).toNat := by
  decide

theorem witness_FieldDecodeActsAsItsRow : 1 ≤ 4 ∧ 53 + 2 ≤ 55 ∧ 6 ≤ (0x06 : Byte).toNat := by decide

theorem witness_FrameAcceptedIffConditions : busy.rx.wf 55 = true ∧ canon.length ≤ 55 ∧ Accepted canon ∧ ¬ Accepted [] := by
  decide

theorem witness_AcceptedFrameCommits : busy.rx.wf 55 = true ∧ Accepted canon := by decide

theorem witness_RejectedFrameChangesNoRegister : busy.rx.wf 55 = true ∧ (canon.set 3 0x05).length ≤ 55 ∧
    ¬ Accepted (canon.set 3 0x05) := by decide

theorem witness_FramingThenChecksum : busy.rx.wf 55 = true ∧ ¬ Framed (canon.take 4) ∧ (canon.set 52 0x45).length ≤ 55 ∧
    Framed (canon.set 52 0x45) ∧ ¬ Checksummed (canon.set 52 0x45) := by decide

theorem witness_AlteredByteIsChecksumMismatch : busy.rx.wf 55 = true ∧ Accepted canon ∧ 2 ≤ 2 ∧ 2 ≤ 53 ∧ 53 ≤ 53 ∧
    (0x80 : Byte) ≠ 0 := by decide

theorem witness_WalkVerdicts_complete : busy.rx.wf 55 = true ∧ (wireFrame 10 tenFloats []).length ≤ 55 ∧
    (10 : Byte).toNat = tenFloats.length ∧ tenFloats.length = 10 ∧ (∀ f ∈ tenFloats, f.1 = .float32) ∧
    (wireFrame 0 [] []).length ≤ 55 ∧ (0 : Byte).toNat = ([] : List (FieldType × BitVec 32)).length := by decide

theorem witness_WalkVerdicts_errors :
    ((wireFrame 9 (List.replicate 9 (floatField 0)) [0, 0, 0, 0, 0]).length ≤ 55 ∧
      (9 : Byte).toNat = (List.replicate 9 (floatField 0)).length ∧ [(0 : Byte), 0, 0, 0, 0] ≠ []) ∧
    ((wireFrame 11 tenFloats []).length ≤ 55 ∧ tenFloats.length < (11 : Byte).toNat) ∧
    ((wireFrame 1 [] [0x04, 0x00, 0x00, 0x80]).length ≤ 55 ∧ fieldTypeOf 0x04 = some .float32 ∧
      [(0x00 : Byte), 0x00, 0x80].length < widthOf .float32) ∧
    ((wireFrame 2 [(.int16, 1)] [0x06]).length ≤ 55 ∧ [((.int16, 1) : FieldType × BitVec 32)].length < (2 : Byte).toNat ∧
      6 ≤ (0x06 : Byte).toNat) := by decide

theorem witness_CommandDecodeIsTotal : 55 ≤ 55 ∧ Accepted (busy.rx.slice 0 55) ∧ ¬ Accepted (busy.rx.slice 0 0) := by decide

theorem witness_Telemetry_statements : busy.tx.wf 32 = true ∧ State.reset.tx.wf 32 = true := by decide

theorem witness_ReservedOpIsIgnored : ((0 : BitVec 3) = 0) ∧ ((5 : BitVec 3) = 5) ∧ ((7 : BitVec 3) = 7) := by decide

theorem witness_FlagsAreClearedByResetAlone :
    nextOf (step (waiting [.word .op [0x05]])) = some { waiting [] with out := .none } ∧
      (waiting [.word .op [0x05]]).running = true ∧ (waiting [.word .op [0x05]]).initialized = true := by decide

theorem witness_ClampBoundsItsOperand :
    fgt 0x40E00000 0x40A00000 = true ∧ (fgt 0xC0E00000 0x40A00000 = false ∧ flt 0xC0E00000 0xC0A00000 = true) ∧
      isNaN 0x7FC00000 = true ∧ (isNaN 0x40A00000 = false ∧ fle 0xC0A00000 0x40A00000 = true) ∧
      flt 0xC0A00000 0x40A00000 = true := by decide

theorem witness_AdditionRoundsOnce :
    isFinite 0x7F7FFFFF = true ∧ (fvalue 0x3F800000 + fvalue 0x3F800000).natAbs < overflowUnits 0 ∧
      overflowUnits 0 ≤ (fvalue 0x7F7FFFFF + fvalue 0x7F7FFFFF).natAbs := by decide +kernel

theorem witness_MultiplicationRoundsOnce :
    isFinite 0x7F7FFFFF = true ∧ (fvalue 0x3F800000 * fvalue 0x00000001).natAbs < overflowUnits 149 ∧
      overflowUnits 149 ≤ (fvalue 0x7F7FFFFF * fvalue 0x40000000).natAbs := by decide +kernel

theorem witness_InvalidOperationsGiveQuietNaNs :
    isNaN 0x7F800001 = true ∧ isInf 0x7F800000 = true ∧ isInf 0xFF800000 = true ∧ fsign 0x7F800000 ≠ fsign 0xFF800000 ∧
      isFinite 0x80000000 = true ∧ fvalue 0x80000000 = 0 := by decide

theorem witness_IntToFloatIsNearest : (16777216 : I32).toInt.natAbs ≤ 2 ^ 24 ∧ (-16777216 : I32).toInt.natAbs ≤ 2 ^ 24 := by
  decide

theorem witness_FloatToIntTruncates :
    (isFinite 0xCF000000 = true ∧ -2147483649 * 2 ^ 149 < fvalue 0xCF000000 ∧ fvalue 0xCF000000 < 2147483648 * 2 ^ 149) ∧
      ¬ fvalue 0x4F000000 < 2147483648 * 2 ^ 149 ∧
      (isNaN 0x7F800000 = false ∧ isFinite 0x44FA0000 = true ∧ fle 0x00000000 0x44FA0000 = true ∧
        fvalue 0x44FA0000 < 2147483648 * 2 ^ 149) := by decide +kernel

theorem witness_PidTickComputesItsTerms :
    isFinite 0x00000000 = true ∧ isFinite 0x41200000 = true ∧ State.reset.pid[(6 : Fin 7)].finite = true ∧
      (0 : Fin 7) ≠ 6 := by decide

theorem witness_PidOutputIsBounded :
    isFinite 0x00000000 = true ∧ isFinite 0x453B8000 = true ∧ State.reset.pid[(4 : Fin 7)].finite = true ∧
      fle 0x00000000 State.reset.pid[(4 : Fin 7)].outMax = true ∧
      isNaN (axisWork 4 0x00000000 0x453B8000 .reset).u = false ∧
      fgt (axisWork 4 0x00000000 0x453B8000 .reset).u State.reset.pid[(4 : Fin 7)].outMax = true ∧
      fle 0x00000000 State.reset.pid[(4 : Fin 7)].ioutMax = true ∧
      isNaN (fmul 2 State.reset.pid[(4 : Fin 7)].ki (axisWork 4 0x00000000 0x453B8000 .reset).acc) = false := by decide +kernel

theorem witness_PidOutputIsBounded_negative_limit :
    let s : State := { State.reset with pid := State.reset.pid.set 4 { PidState.reset with outMax := 0xC4FA0000 } }
    s.pid[(4 : Fin 7)].finite = true ∧ flt s.pid[(4 : Fin 7)].outMax 0x00000000 = true ∧ isNaN (axisWork 4 0x00000000 0x453B8000 s).u = false := by
  decide +kernel

/-- Finite inputs whose sum is `inf - inf`, a NaN whatever the free draw is. -/
theorem witness_PidOutputIsBounded_nan_sum :
    let r : PidState := { PidState.reset with kp := 0x7F000000, kd := 0xFF000000 }
    let s : State := { State.reset with pid := State.reset.pid.set 4 r }
    isFinite 0x7F000000 = true ∧ s.pid[(4 : Fin 7)].finite = true ∧ isNaN (axisWork 4 0x00000000 0x7F000000 s).u = true := by
  have quiet : isNaN (fadd 7 0x7F800000 0xFF800000) = true := by
    have h := isQuietNaN_freeNaN 7
    simp only [isQuietNaN, Bool.and_eq_true] at h
    exact h.1
  refine ⟨by decide, by decide, ?_⟩
  simp only [axisWork, pidCompute]
  convert quiet using 3 <;> decide +kernel

theorem witness_DivisionRoundsTowardZero : 0 < 1 := by decide

theorem witness_ForwardAfterInverseIsIdentity :
    ∀ k : Fin 3, (#v[2097152, -2097152, 0] : Vector I32 3)[k].toInt.natAbs ≤ 2 ^ 21 := by decide

theorem witness_ControlTickIsGatedByInit : State.reset.initialized = false ∧ ready.initialized = true := by decide

theorem witness_GatedTickRunsThePipeline :
    ready.initialized = true ∧ ready.finiteInputs #v[0x41F00000, 0, 0x40A00000] ∧
      ∀ j : Fin 4, isFinite (mixInverse 1 24 #v[0x41700000, 0, 0])[j] = true := by decide +kernel

/-- P4: the outer outputs are -2000.0, 0.0, 0.0. -/
theorem witness_CommandsStayWithinLimits :
    ready.initialized = true ∧ ready.finiteInputs #v[0, 0, 0] ∧ ready.pid[(3 : Fin 7)].outMax = 0x44FA0000 ∧
      ((nextOf (exec (.ctrlTick #v[40000, 40000, 40000, 40000] #v[0, 0, 0]) ready)).map fun t =>
        (t.pid[0].lastOutput, t.pid[1].lastOutput, t.pid[2].lastOutput, isNaN t.pid[3].lastOutput)) =
        some (0xC4FA0000, 0, 0, false) ∧
      ∀ j : Fin 4, isFinite (mixInverse 1 24 #v[0xC4FA0000, 0, 0])[j] = true := by decide +kernel

theorem witness_LandedCommitSplitsTheTickCleanly :
    ready.initialized = true ∧ ready.finiteInputs #v[0x41200000, 0, 0] ∧ (∀ i : Fin 10, isFinite customGains[i] = true) ∧
      ∀ j : Fin 4, isFinite (mixInverse 1 24 #v[0x41F00000, 0, 0])[j] = true := by decide +kernel

theorem witness_OnlyRegistersSurviveOperations :
    isPortOperation (.tlmTick #v[1, 2, 3] #v[0, 0, 0]) = true ∧ (Instr.tlmTick #v[1, 2, 3] #v[0, 0, 0]).wellFormed = true ∧
      busy.rx.wf 55 = true ∧ busy.tx.wf 32 = true ∧ ({ busy with rx := [], tx := [] } : State).rx.wf 55 = true ∧
      ({ busy with rx := [], tx := [] } : State).tx.wf 32 = true ∧ busy.sameRegisters { busy with rx := [], tx := [] } ∧
      busy.draws = ({ busy with rx := [], tx := [] } : State).draws := by decide

theorem witness_EachRegisterHasOneWriter :
    isPortOperation .init = true ∧ Instr.init ≠ .reset ∧
      nextOf (exec .init .reset) = some { State.reset with initialized := true } ∧
      isPortOperation (.opReserved 5) = true ∧ Instr.opReserved 5 ≠ .init := by decide

theorem witness_WritersOfRecords :
    nextOf (exec .init .reset) = some { State.reset with initialized := true } ∧ Instr.init ≠ .reset ∧
      (∀ g, Instr.init ≠ .commit g) ∧ (∀ b, Instr.init ≠ .rxFrame b) ∧ (∀ f g, Instr.init ≠ .ctrlTick f g) ∧
      (∀ f g, Instr.init ≠ .pidTick 0 f g) := by
  refine ⟨by decide, by decide, ?_, ?_, ?_, ?_⟩ <;> intros <;> intro h <;> cases h

theorem witness_StepKeepsTheInvariant :
    (waiting [.rxByte 0xAA]).Inv ∧ nextOf (step (waiting [.rxByte 0xAA])) = some { waiting [] with link := ⟨[0xAA], false⟩ } := by
  decide

theorem witness_DeliveryDecodesOrDiscards :
    (waiting (deliver canon [])).link = ⟨[], false⟩ ∧ (waiting (deliver canon [])).pending = deliver canon [] ∧
      canon.length ≤ 55 ∧ 55 < (canon ++ [0x00]).length := by decide

theorem witness_EveryWellFormedOperationCompletes : (Instr.cmdDecode 55).wellFormed = true := by decide

theorem witness_StopsOutsideTheRules :
    (faultOf (exec (.xor8 .rx 55 56) .reset) = some (.bufferOffset .rx 55)) ∧ 55 < 56 ∧
      (fieldTypeOf 0x04 = some .float32 ∧ 52 + widthOf .float32 ≤ 56 ∧ 55 < 52 + widthOf .float32) ∧
      faultOf (exec (.fldDecode 52 0x04 56) .reset) = some (.bufferOffset .rx 55) ∧
      faultOf (exec (.fldU16 54 56 0) .reset) = some (.bufferOffset .rx 55) ∧
      faultOf (exec (.fldU8 55 56 0) .reset) = some (.bufferOffset .rx 55) ∧ outOf (exec (.fldU8 54 55 0) .reset) =
        some (.field (.uint8 0) 55) ∧
      refusalOf (exec (.rxFrame (List.replicate 56 0)) .reset) = some (.overlongFrame 56) := by decide

/-- Terms that are not well-formed and complete all the same, each at the edge of what stops. -/
theorem witness_StopsOutsideTheRules_completes :
    staysInside (Instr.fldU8 54 55 7) = true ∧ staysInside (Instr.fldI16 0 53 7) = true ∧
      staysInside (Instr.xor8 .tx 40 33) = true ∧ staysInside (Instr.fldI32 52 55 7) = true ∧
      staysInside (Instr.fldU8 55 56 7) = false ∧ staysInside (Instr.fldDecode 52 0x04 56) = false ∧
      staysInside (Instr.fldDecode 52 0x06 56) = true ∧ staysInside (Instr.cmdDecode 56) = false := by decide

theorem witness_ComparisonsOrderValues :
    (isFinite 0x00000000 = true ∧ isFinite 0x80000000 = true ∧ fvalue 0x00000000 = fvalue 0x80000000) ∧
      isNaN 0xFF800001 = true ∧ isInf 0x7F800000 = true ∧ isInf 0xFF800000 = true ∧ isFinite 0x7F7FFFFF = true := by
  decide +kernel

end Sys2Proof.Tests
end

section
/-! The registers right after reset (10_state.md rule R36). -/

namespace Sys2Proof.Machine

theorem State.reset_pid_eq_replicate : State.reset.pid = Vector.replicate 7 PidState.reset := rfl

/-- The PID records do not differ by axis at reset: rule R36 gives each row for "all `a`". -/
@[simp] theorem State.reset_pid_getElem (a : Fin 7) : State.reset.pid[a] = PidState.reset := by
  rw [State.reset_pid_eq_replicate]
  exact Vector.getElem_replicate a.isLt

/-- Rule R36's record: the default gains as bit patterns (1.0, 1.0, 1.0, 500.0, 2000.0), the dynamic registers +0.0. -/
theorem PidState.reset_eq : PidState.reset =
    { kp := 0x3F800000, ki := 0x3F800000, kd := 0x3F800000, ioutMax := 0x43FA0000, outMax := 0x44FA0000
      integralAccum := 0x00000000, lastError := 0x00000000, lastOutput := 0x00000000 } := rfl

/-- Settles O29: the one PID record is read at every axis, the other registers are literals of the reset state. -/
theorem resetValues : Obligations.ResetValues := by
  have pidRecords (a : Fin 7) := (State.reset_pid_getElem a).trans PidState.reset_eq
  exact ⟨rfl, rfl, rfl, rfl, rfl, pidRecords, rfl, rfl⟩

end Sys2Proof.Machine
end

section
/-! The reserved port requests (30_encoding.md rule R87). -/

namespace Sys2Proof.Machine

/-- The row's meaning does not look at its operand: that `op` is one of the four reserved values is the decoder's part
(log entry 21). -/
theorem exec_opReserved (op : BitVec 3) (s : State) : exec (.opReserved op) s = .next (s.withOut .none) := rfl

/-- Settles O30: clearing the output port is all the row does, for each of the four reserved values. -/
theorem reservedOpIsIgnored : Obligations.ReservedOpIsIgnored := by
  intro s op _
  exact exec_opReserved op s

end Sys2Proof.Machine
end

section
/-! The FieldCodec's unit functions and integer rows (40_field_codec.md rules R100, R101, R104 to R106 and R108). -/

namespace Sys2Proof.Machine

/-! XOR8 on a list of bytes (rule R100). -/

/-- Rule R100's loop before its first turn. -/
@[simp] theorem xor8_self (b : List Byte) (lo : Nat) : xor8 b lo lo = 0 := by
  simp [xor8]

/-- One more turn of rule R100's loop. -/
theorem xor8_succ {b : List Byte} {lo hi : Nat} (hlo : lo ≤ hi) (hhi : hi < b.length) :
    xor8 b lo (hi + 1) = xor8 b lo hi ^^^ byteAt b hi := by
  have hlast : (b.drop lo)[hi - lo]? = some (byteAt b hi) := by
    rw [List.getElem?_drop, Nat.add_sub_cancel' hlo, byteAt, List.getD_eq_getElem _ _ hhi,
      List.getElem?_eq_getElem hhi]
  rw [xor8, Nat.sub_add_comm hlo, List.take_add_one, hlast, xorBytes_append]
  simp [xor8]

/-! The buffers as lists of bytes (rule R50). -/

@[simp] theorem State.length_buffer (s : State) (b : Buf) : (s.buffer b).length = b.capacity := by
  cases b <;> simp [State.buffer, Buf.capacity]

theorem State.byteAt_buffer_rx {s : State} {i : Nat} (h : i < Buf.rx.capacity) :
    byteAt (s.buffer .rx) i = s.rx.read i :=
  (Memory.byteAt_slice h).trans (congrArg s.rx.read (Nat.zero_add i))

theorem State.byteAt_buffer_tx {s : State} {i : Nat} (h : i < Buf.tx.capacity) :
    byteAt (s.buffer .tx) i = s.tx.read i :=
  (Memory.byteAt_slice h).trans (congrArg s.tx.read (Nat.zero_add i))

/-! XOR8 as an operation. -/

/-- A range inside its buffer is no fault. -/
theorem exec_xor8_of_le_capacity {b : Buf} {hi : Nat} (h : hi ≤ b.capacity) (lo : Nat) (s : State) :
    exec (.xor8 b lo hi) s = .next (s.withOut (.byte (xor8 (s.buffer b) lo hi))) :=
  if_neg fun ⟨_, hover⟩ => absurd h (Nat.not_le_of_lt hover)

/-- Settles O7: the operation is `xor8` of the buffer's bytes, and `xor8` takes one turn of its loop per byte. -/
theorem xorOfLongerRange : Obligations.XorOfLongerRange := by
  intro s b lo hi hlo hhi
  have hempty : exec (.xor8 b lo lo) s = .next (s.withOut (.byte 0)) := by
    rw [exec_xor8_of_le_capacity (hlo.trans hhi), xor8_self]
  refine ⟨hempty, xor8 (s.buffer b) lo hi, exec_xor8_of_le_capacity hhi lo s, fun hlt => ?_⟩
  have hturn := xor8_succ hlo (hlt.trans_eq (s.length_buffer b).symm)
  rw [exec_xor8_of_le_capacity hlt, hturn]
  cases b with
  | rx => rw [State.byteAt_buffer_rx hlt]; rfl
  | tx => rw [State.byteAt_buffer_tx hlt]; rfl

/-! WIDTH (rule R101). -/

/-- Rule R101's table by the order of the tags: all eight bits of the tag byte take part. -/
theorem tagWidth_eq (tag : Byte) : tagWidth tag =
    if tag.toNat ≤ 1 then some 2 else if tag.toNat ≤ 4 then some 4
      else if tag.toNat = 5 then some 1 else none := by
  unfold tagWidth fieldTypeOf
  generalize tag.toNat = n
  match n with
  | 0 | 1 | 2 | 3 | 4 | 5 => rfl
  | n + 6 => rfl

theorem exec_width (tag : Byte) (s : State) : exec (.width tag) s = .next (s.withOut (.width (tagWidth tag))) := rfl

/-- Settles O8: WIDTH puts `tagWidth` on the output port, whatever the state. -/
theorem widthOfEveryTag : Obligations.WidthOfEveryTag := by
  intro s tag
  rw [exec_width, tagWidth_eq]
  rfl

/-! The integer rows (rules R104 to R106 and R108). -/

/-- The sign bit of an Int32 field is bit 7 of its last byte (rule R105). -/
theorem join32_toInt (b0 b1 b2 b3 : Byte) : (join32 b0 b1 b2 b3).toInt =
    b0.toNat + 256 * b1.toNat + 65536 * b2.toNat + 16777216 * b3.toNat - if 128 ≤ b3.toNat then 4294967296 else 0 := by
  have h0 := b0.isLt
  have h1 := b1.isLt
  have h2 := b2.isLt
  rw [BitVec.toInt_eq_toNat_cond, join32_toNat]
  split <;> split <;> push_cast <;> omega

theorem fieldU16_join16 (b0 b1 : Byte) : fieldU16 (join16 b0 b1) = .uint16 (b0.toNat + 256 * b1.toNat) :=
  congrArg Field.uint16 (join16_toNat b0 b1)

theorem fieldU32_join32 (b0 b1 b2 b3 : Byte) : fieldU32 (join32 b0 b1 b2 b3) =
    .uint32 (b0.toNat + 256 * b1.toNat + 65536 * b2.toNat + 16777216 * b3.toNat) :=
  congrArg Field.uint32 (join32_toNat b0 b1 b2 b3)

theorem fieldI32_join32 (b0 b1 b2 b3 : Byte) : fieldI32 (join32 b0 b1 b2 b3) =
    .int32 (b0.toNat + 256 * b1.toNat + 65536 * b2.toNat + 16777216 * b3.toNat
      - if 128 ≤ b3.toNat then 4294967296 else 0) :=
  congrArg Field.int32 (join32_toInt b0 b1 b2 b3)

/-- Settles O9: each row reports through the bound test, which a limit inside the receive buffer keeps from faulting;
the payload is the number its bytes spell. -/
theorem integerFieldValues : Obligations.IntegerFieldValues := by
  intro s o lim b0 b1 b2 b3 _ hlim
  have hcap : lim ≤ Config.rxCap := (Nat.le_add_right lim 2).trans hlim
  refine ⟨?_, ?_, ?_, ?_⟩
  · rw [← fieldU16_join16]
    exact reportField_boundField hcap (fieldU16 (join16 b0 b1)) s
  · rw [← fieldU32_join32]
    exact reportField_boundField hcap (fieldU32 (join32 b0 b1 b2 b3)) s
  · rw [← fieldI32_join32]
    exact reportField_boundField hcap (fieldI32 (join32 b0 b1 b2 b3)) s
  · exact reportField_boundField hcap (fieldU8 b0) s

end Sys2Proof.Machine
end

section
/-! Which frames the FrameDecoder accepts, and what RX_FRAME does with either kind (41_frame_decoder.md rules R121 to
R131). -/

namespace Sys2Proof.Machine

/-! A walk over Float32 fields (rules R124 and R125). -/

/-- One turn of the walk, read backwards: the field it took, and the walk that was left. -/
theorem walk_succ_eq_ok_iff {b : List Byte} {lim n off last : Nat} {fs : List Field} :
    walk b lim (n + 1) off = .ok (fs, last) ↔
      ∃ ty rest, fieldTypeOf (byteAt b off) = some ty ∧ off + 1 + widthOf ty ≤ lim ∧
        walk b lim n (off + 1 + widthOf ty) = .ok (rest, last) ∧ fs = fieldAt ty b (off + 1) :: rest := by
  rcases decodeFieldAt_cases b (off + 1) (byteAt b off) lim with ⟨htag, hd⟩ | ⟨ty, htag, ⟨hw, hd⟩ | ⟨hw, hd⟩⟩
  · simp [walk, hd, htag, ite_eq_iff]
  · simp [walk, hd, htag, Nat.not_le_of_lt hw]
  · have hoff : ¬ lim ≤ off := by omega
    cases hrec : walk b lim n (off + 1 + widthOf ty) with
    | error e => simp [walk, hd, htag, hoff, hrec]
    | ok r =>
      obtain ⟨rest, last'⟩ := r
      simp [walk, hd, htag, hw, hoff, hrec, and_comm, eq_comm]

theorem fieldTypeOf_eq_float32_iff {tag : Byte} : fieldTypeOf tag = some .float32 ↔ tag = 0x04 :=
  ⟨fun h => (tagOf_of_fieldTypeOf h).symm, fun h => h ▸ rfl⟩

/-- The payloads of a walked sequence exist only where every type is Float32: the head's part. -/
theorem floatPayloads_fieldAt_cons_iff {ty : FieldType} {b : List Byte} {o : Nat} {fs : List Field} {vs : List F32} :
    floatPayloads (fieldAt ty b o :: fs) = some vs ↔
      ty = .float32 ∧ ∃ rest, floatPayloads fs = some rest ∧ vs = memRead4 b o :: rest := by
  cases ty <;> simp [fieldAt, fieldI16, fieldU16, fieldI32, fieldU32, fieldF32, fieldU8, floatPayloads, eq_comm]

/-- The values of `n` Float32 fields that stand one behind the other from an offset on: five bytes a field, the tag
first (rule R84). -/
def floatValues (b : List Byte) : Nat → Nat → List F32
  | 0, _ => []
  | n + 1, off => memRead4 b (off + 1) :: floatValues b n (off + 5)

theorem forall_lt_succ_tag_iff {b : List Byte} {n off : Nat} {tag : Byte} :
    (∀ i < n + 1, byteAt b (off + 5 * i) = tag) ↔
      byteAt b off = tag ∧ ∀ i < n, byteAt b (off + 5 + 5 * i) = tag := by
  rw [Nat.forall_lt_succ_left]
  simp [Nat.mul_add, Nat.add_assoc, Nat.add_comm 5]

/-- The walk reads `n` Float32 fields exactly where `n` Float32 tags stand five bytes apart and the last value ends
inside the limit. -/
theorem walk_floatPayloads_iff {b : List Byte} {lim n off last : Nat} {vs : List F32} (hoff : off ≤ lim) :
    (∃ fs, walk b lim n off = .ok (fs, last) ∧ floatPayloads fs = some vs) ↔
      off + 5 * n ≤ lim ∧ (∀ i < n, byteAt b (off + 5 * i) = 0x04) ∧ last = off + 5 * n ∧ vs = floatValues b n off := by
  induction n generalizing off vs with
  | zero => simp [walk, floatPayloads, floatValues, hoff, eq_comm]
  | succ n ih =>
    rw [forall_lt_succ_tag_iff]
    constructor
    · rintro ⟨_, hw, hp⟩
      obtain ⟨ty, rest, htag, hlim, hrest, rfl⟩ := walk_succ_eq_ok_iff.mp hw
      obtain ⟨rfl, vs', hvs, rfl⟩ := floatPayloads_fieldAt_cons_iff.mp hp
      obtain ⟨hend, htags, rfl, rfl⟩ := (ih hlim).mp ⟨rest, hrest, hvs⟩
      refine ⟨?_, ⟨fieldTypeOf_eq_float32_iff.mp htag, htags⟩, ?_, rfl⟩ <;> simp only [widthOf] at * <;> omega
    · rintro ⟨hend, ⟨htag, htags⟩, rfl, rfl⟩
      have hlim : off + 5 ≤ lim := by omega
      obtain ⟨rest, hrest, hvs⟩ := (ih hlim).mpr ⟨by omega, htags, by omega, rfl⟩
      refine ⟨_, walk_succ_eq_ok_iff.mpr ⟨.float32, rest, fieldTypeOf_eq_float32_iff.mpr htag, hlim, hrest, rfl⟩,
        floatPayloads_fieldAt_cons_iff.mpr ⟨rfl, _, hvs, rfl⟩⟩

/-! The stages of CMD_DECODE (rules R121 to R125). -/

theorem decodeCommandFrame_of_not_framed {b : List Byte} (h : ¬ Framed b) :
    decodeCommandFrame Config.checkTrailer b = .error .badHeader := by
  unfold decodeCommandFrame
  split_ifs with hlen hhead htrail
  · rfl
  · rfl
  · rfl
  all_goals
    push Not at hhead htrail
    exact absurd ⟨not_lt.mp hlen, hhead.1, hhead.2, htrail⟩ h

/-- Behind the framing test stand the checksum test, the walk and, where the walk completes, the layout. -/
theorem decodeCommandFrame_of_framed {b : List Byte} (h : Framed b) :
    decodeCommandFrame Config.checkTrailer b =
      if Checksummed b then (walk b (b.length - 2) (byteAt b 2).toNat 3).bind
        fun r => layoutGains (byteAt b 2).toNat r.1 r.2 (b.length - 2)
      else .error .checksumMismatch := by
  obtain ⟨hlen, h0, h1, htrail⟩ := h
  unfold decodeCommandFrame
  rw [if_neg (not_lt.mpr hlen), if_neg (by simp [h0, h1]), if_neg (fun ht => ht.2 (htrail ht.1)), ite_not]
  cases walk b (b.length - 2) (byteAt b 2).toNat 3 <;> rfl

/-- A gain set comes out where each of the five stages passes. -/
theorem decodeCommandFrame_eq_ok_iff_stages {b : List Byte} {g : GainSet} :
    decodeCommandFrame Config.checkTrailer b = .ok g ↔ Framed b ∧ Checksummed b ∧
      ∃ fs last, walk b (b.length - 2) (byteAt b 2).toNat 3 = .ok (fs, last) ∧
        layoutGains (byteAt b 2).toNat fs last (b.length - 2) = .ok g := by
  by_cases hf : Framed b
  · rw [decodeCommandFrame_of_framed hf]
    by_cases hc : Checksummed b
    · rw [if_pos hc, and_iff_right hf, and_iff_right hc]
      cases walk b (b.length - 2) (byteAt b 2).toNat 3 with
      | error e => simp [Except.bind]
      | ok r =>
        obtain ⟨fs, last⟩ := r
        simp [Except.bind]
    · simp [hc]
  · simp [decodeCommandFrame_of_not_framed hf, hf]

/-- The layout test passes for ten Float32 fields and no byte behind them (rule R125). -/
theorem layoutGains_eq_ok_iff {count last lim : Nat} {fs : List Field} {g : GainSet} :
    layoutGains count fs last lim = .ok g ↔
      count = Config.nGain ∧ last = lim ∧ ∃ vs, floatPayloads fs = some vs ∧ gainSetOf vs = some g := by
  rw [← Option.bind_eq_some_iff]
  constructor
  · intro h
    rcases layoutGains_cases count fs last lim with he | ⟨g', hg', hcount, hlast, hgains⟩
    · rw [he] at h; cases h
    · rw [hg'] at h; cases h
      exact ⟨hcount, hlast, hgains⟩
  · rintro ⟨rfl, rfl, hgains⟩
    simp [layoutGains, hgains]

/-! Acceptance (rule R131). -/

theorem gainSetOf_floatValues (b : List Byte) : gainSetOf (floatValues b 10 3) = some (frameGains b) := rfl

/-- The two tests of the whole frame on a frame of 55 bytes. -/
theorem framed_and_checksummed_iff_of_length {b : List Byte} (h : b.length = 55) :
    Framed b ∧ Checksummed b ↔ byteAt b 0 = 0xAA ∧ byteAt b 1 = 0x55 ∧
      (Config.checkTrailer = true → byteAt b 54 = 0x5D) ∧ byteAt b 53 = xor8 b 0 53 := by
  rw [Framed, Checksummed, h]
  constructor
  · rintro ⟨⟨-, h0, h1, htrail⟩, hsum⟩
    exact ⟨h0, h1, htrail, hsum.symm⟩
  · rintro ⟨h0, h1, htrail, hsum⟩
    exact ⟨⟨by decide, h0, h1, htrail⟩, hsum.symm⟩

/-- The walk and the layout test pass where ten Float32 fields fill the frame from offset 3 to its checksum, which
fixes its length. -/
theorem walk_layout_iff {b : List Byte} {g : GainSet} (hlen : 5 ≤ b.length) :
    (∃ fs last, walk b (b.length - 2) (byteAt b 2).toNat 3 = .ok (fs, last) ∧
        layoutGains (byteAt b 2).toNat fs last (b.length - 2) = .ok g) ↔
      b.length = 55 ∧ byteAt b 2 = 0x0A ∧ (∀ i : Fin 10, byteAt b (3 + 5 * i) = 0x04) ∧ g = frameGains b := by
  constructor
  · rintro ⟨fs, last, hw, hl⟩
    obtain ⟨hcount, rfl, vs, hvs, hg⟩ := layoutGains_eq_ok_iff.mp hl
    rw [hcount] at hw
    obtain ⟨-, htags, hlast, rfl⟩ := (walk_floatPayloads_iff (by omega)).mp ⟨fs, hw, hvs⟩
    rw [Config.nGain] at hlast htags hg hcount
    rw [gainSetOf_floatValues, Option.some.injEq] at hg
    exact ⟨by omega, BitVec.eq_of_toNat_eq hcount, fun i => htags i i.isLt, hg.symm⟩
  · rintro ⟨hlen, hcount, htags, rfl⟩
    obtain ⟨fs, hw, hvs⟩ := (walk_floatPayloads_iff (b := b) (lim := 53) (n := 10) (by decide)).mpr
      ⟨by decide, fun i hi => htags ⟨i, hi⟩, rfl, rfl⟩
    rw [hlen, hcount]
    exact ⟨fs, 53, hw, layoutGains_eq_ok_iff.mpr ⟨rfl, rfl, _, hvs, gainSetOf_floatValues b⟩⟩

/-- Rule R131, with the gain set that comes out (rule R84). -/
theorem decodeCommandFrame_eq_ok_iff {b : List Byte} {g : GainSet} :
    decodeCommandFrame Config.checkTrailer b = .ok g ↔ Accepted b ∧ g = frameGains b := by
  rw [decodeCommandFrame_eq_ok_iff_stages]
  constructor
  · rintro ⟨hf, hc, hstages⟩
    obtain ⟨hlen, hcount, htags, hg⟩ := (walk_layout_iff hf.1).mp hstages
    obtain ⟨h0, h1, htrail, hsum⟩ := (framed_and_checksummed_iff_of_length hlen).mp ⟨hf, hc⟩
    exact ⟨⟨hlen, h0, h1, hcount, htags, hsum, htrail⟩, hg⟩
  · rintro ⟨⟨hlen, h0, h1, hcount, htags, hsum, htrail⟩, hg⟩
    obtain ⟨hf, hc⟩ := (framed_and_checksummed_iff_of_length hlen).mpr ⟨h0, h1, htrail, hsum⟩
    exact ⟨hf, hc, (walk_layout_iff hf.1).mpr ⟨hlen, hcount, htags, hg⟩⟩

/-! RX_FRAME (rules R128 and R129). -/

/-- The two ends of RX_FRAME for a frame that fits the buffer: the commit of an accepted frame's gains, or a dropped
frame. -/
theorem exec_rxFrame_cases {s : State} {b : List Byte} (hwf : s.rx.wf 55 = true) (hlen : b.length ≤ 55) :
    (Accepted b ∧ exec (.rxFrame b) s =
        .next ((commitGains (frameGains b) (s.handOver b)).withOut (.status .ok))) ∨
      (¬ Accepted b ∧ ∃ e, decodeCommandFrame Config.checkTrailer b = .error e ∧
        exec (.rxFrame b) s = .next (dropFrame e (s.handOver b))) := by
  have hexec : exec (.rxFrame b) s = .next (serveFrame b.length (s.handOver b)) := execRxFrame_next hlen s
  have hcases := serveFrame_cases b.length (s.handOver b)
  rw [handOver_slice hwf hlen] at hcases
  rw [hexec]
  rcases hcases with ⟨g, hd, hs⟩ | ⟨e, hd, hs⟩
  · obtain ⟨hacc, rfl⟩ := decodeCommandFrame_eq_ok_iff.mp hd
    exact .inl ⟨hacc, congrArg _ hs⟩
  · refine .inr ⟨fun hacc => ?_, e, hd, congrArg _ hs⟩
    rw [decodeCommandFrame_eq_ok_iff.mpr ⟨hacc, rfl⟩] at hd
    cases hd

/-- Settles O12: the status is Ok at the committing end of RX_FRAME, which is the end of the accepted frames. -/
theorem frameAcceptedIffConditions : Obligations.FrameAcceptedIffConditions := by
  intro s b hwf hlen
  rcases exec_rxFrame_cases hwf hlen with ⟨hacc, hexec⟩ | ⟨hrej, e, -, hexec⟩
  · exact ⟨_, hexec, iff_of_true rfl hacc⟩
  · exact ⟨_, hexec, iff_of_false (by simp) hrej⟩

/-- Settles O14: a rejected frame is handed over and dropped, which writes the receive buffer and the status alone. -/
theorem rejectedFrameChangesNoRegister : Obligations.RejectedFrameChangesNoRegister := by
  intro s b hwf hlen hrej
  rcases exec_rxFrame_cases hwf hlen with ⟨hacc, -⟩ | ⟨-, e, -, hexec⟩
  · exact absurd hacc hrej
  · exact ⟨e, _, hexec, rfl, ⟨rfl, rfl, rfl, rfl, rfl, rfl, rfl, rfl⟩, rfl⟩

end Sys2Proof.Machine
end

section
/-! The telemetry frame that stands in the transmit buffer after an encoding (42_frame_encoder.md rules R140 to R148). -/

namespace Sys2Proof.Machine

/-! A memory as a list of its bytes (rule R50), and XOR8 on it (rule R100). -/

theorem Memory.slice_eq_map_range' (m : Memory) (off n : Nat) : m.slice off n = (List.range' off n).map m.read := by
  induction n generalizing off with
  | zero => rfl
  | succ n ih => simp [Memory.slice, ih, List.range'_succ]

theorem State.buffer_tx_eq_map_range (s : State) : s.buffer .tx = (List.range 32).map s.tx.read := by
  rw [List.range_eq_range', ← Memory.slice_eq_map_range']; rfl

theorem xor8_slice_zero {m : Memory} {k n : Nat} (h : n ≤ k) :
    xor8 (m.slice 0 k) 0 n = (List.range n).foldl (fun r i => r ^^^ m.read i) 0 := by
  rw [Memory.slice_eq_map_range', ← List.range_eq_range', xor8, xorBytes, List.drop_zero, Nat.sub_zero, ← List.map_take,
    List.take_range, min_eq_left h, List.foldl_map]

theorem exec_xor8_of_eq {b : Buf} {lo hi : Nat} {s : State} {x : Byte} (h : hi ≤ b.capacity)
    (hx : xor8 (s.buffer b) lo hi = x) : exec (.xor8 b lo hi) s = .next { s with out := .byte x } := by
  rw [exec_xor8_of_le_capacity h, hx]
  rfl

/-! The slots (rules R140, R142 and R143). -/

theorem extractLsb'_low_trunc16 (v : I32) : (trunc16 v).extractLsb' 0 8 = v.extractLsb' 0 8 :=
  BitVec.extractLsb'_extractLsb'_of_le (by decide)

theorem extractLsb'_high_trunc16 (v : I32) : (trunc16 v).extractLsb' 8 8 = v.extractLsb' 8 8 :=
  BitVec.extractLsb'_extractLsb'_of_le (by decide)

/-- Slot `i` of a list stands `2 * i` bytes above the first one, low byte first. -/
theorem read_writeSlots {cap off i : Nat} {m : Memory} {vs : List Slot} (hm : m.wf cap = true)
    (h : off + 2 * vs.length ≤ cap) (hi : i < vs.length) :
    (writeSlots m off vs).read (off + 2 * i) = vs[i].extractLsb' 0 8 ∧
      (writeSlots m off vs).read (off + 2 * i + 1) = vs[i].extractLsb' 8 8 := by
  induction vs generalizing m off i with
  | nil => cases hi
  | cons v vs ih =>
    rw [List.length_cons] at h hi
    have hw := memWrite2_wf (v := v) hm (show off + 2 ≤ cap by omega)
    cases i with
    | zero =>
      constructor <;>
        rw [writeSlots, read_writeSlots_outside hw (by omega) (by omega), read_memWrite2 hm (by omega)] <;> simp
    | succ i =>
      rw [show off + 2 * (i + 1) = off + 2 + 2 * i by omega]
      exact ih hw (by omega) (by omega)

theorem registerSlots_cmd (s : State) (j : Fin 4) : (registerSlots s)[(j : Nat)] = trunc16 s.cmd[j] := by
  match j with
  | 0 | 1 | 2 | 3 => rfl

theorem registerSlots_vel (s : State) (k : Fin 3) : (registerSlots s)[4 + (k : Nat)] = trunc16 s.vel[k] := by
  match k with
  | 0 | 1 | 2 => rfl

theorem registerSlots_pose (s : State) (k : Fin 3) : (registerSlots s)[7 + (k : Nat)] = trunc16 s.pose[k] := by
  match k with
  | 0 | 1 | 2 => rfl

theorem registerSlots_ori (s : State) (k : Fin 3) : (registerSlots s)[10 + (k : Nat)] = trunc16 s.ori[k] := by
  match k with
  | 0 | 1 | 2 => rfl

/-! The bytes of the frame: a header, the slots, and the two bytes that seal it. -/

/-- The buffer with bytes 0 to 3 of a frame in it (rule R141). -/
def writeTelemetryHeader (m : Memory) (running : Bool) : Memory :=
  memWrite1 (memWrite1 (memWrite1 (memWrite1 m 0 0xAA) 1 0x55) 2 0x20) 3 (runningByte running)

theorem writeTelemetryBody_eq (m : Memory) (running : Bool) (slots : Vector Slot 13) :
    writeTelemetryBody m running slots = writeSlots (writeTelemetryHeader m running) 4 slots.toList := rfl

section
variable {m : Memory} {running : Bool} {slots : Vector Slot 13}

theorem writeTelemetryHeader_wf (hm : m.wf 32 = true) : (writeTelemetryHeader m running).wf 32 = true :=
  memWrite1_wf (memWrite1_wf (memWrite1_wf (memWrite1_wf hm (by decide)) (by decide)) (by decide)) (by decide)

theorem read_writeTelemetryHeader {y : Nat} (hm : m.wf 32 = true) :
    (writeTelemetryHeader m running).read y =
      if y = 3 then runningByte running else if y = 2 then 0x20 else if y = 1 then 0x55 else if y = 0 then 0xAA
        else m.read y := by
  have h0 := memWrite1_wf (v := 0xAA) hm (show 0 < 32 by decide)
  have h1 := memWrite1_wf (v := 0x55) h0 (show 1 < 32 by decide)
  have h2 := memWrite1_wf (v := 0x20) h1 (show 2 < 32 by decide)
  rw [writeTelemetryHeader, read_memWrite1 h2, read_memWrite1 h1, read_memWrite1 h0, read_memWrite1 hm]

theorem writeTelemetryBody_wf (hm : m.wf 32 = true) : (writeTelemetryBody m running slots).wf 32 = true :=
  writeSlots_wf (writeTelemetryHeader_wf hm) (by simp)

theorem read_writeTelemetryBody_outside {y : Nat} (hm : m.wf 32 = true) (hy : y < 4 ∨ 30 ≤ y) :
    (writeTelemetryBody m running slots).read y = (writeTelemetryHeader m running).read y :=
  read_writeSlots_outside (writeTelemetryHeader_wf hm) (by simp) (by simpa using hy)

theorem read_writeTelemetry {y : Nat} (hm : m.wf 32 = true) :
    (writeTelemetry m running slots).read y =
      if y = 31 then 0x5D
      else if y = 30 then xor8 ((writeTelemetryBody m running slots).slice 0 32) 0 30
      else (writeTelemetryBody m running slots).read y := by
  have hb := writeTelemetryBody_wf (running := running) (slots := slots) hm
  rw [writeTelemetry, read_memWrite1 (memWrite1_wf hb (by decide)), read_memWrite1 hb, Config.tlmLen]

theorem read_writeTelemetry_body {y : Nat} (hm : m.wf 32 = true) (hy : y < 30) :
    (writeTelemetry m running slots).read y = (writeTelemetryBody m running slots).read y := by
  rw [read_writeTelemetry hm, if_neg (by omega), if_neg (by omega)]

theorem read_writeTelemetry_header {y : Nat} (hm : m.wf 32 = true) (hy : y < 4) :
    (writeTelemetry m running slots).read y = (writeTelemetryHeader m running).read y := by
  rw [read_writeTelemetry_body hm (by omega), read_writeTelemetryBody_outside hm (.inl hy)]

/-- The bytes above the frame stay (rule R140). -/
theorem read_writeTelemetry_above {y : Nat} (hm : m.wf 32 = true) (hy : 32 ≤ y) :
    (writeTelemetry m running slots).read y = m.read y := by
  rw [read_writeTelemetry hm, if_neg (by omega), if_neg (by omega), read_writeTelemetryBody_outside hm (by omega),
    read_writeTelemetryHeader hm, if_neg (by omega), if_neg (by omega), if_neg (by omega), if_neg (by omega)]

/-- The checksum is taken before the frame is sealed, over bytes that the seal leaves alone (rule R144). -/
theorem read_writeTelemetry_checksum (hm : m.wf 32 = true) :
    (writeTelemetry m running slots).read 30 =
      (List.range 30).foldl (fun r i => r ^^^ (writeTelemetry m running slots).read i) 0 := by
  rw [read_writeTelemetry hm, if_neg (by decide), if_pos rfl, xor8_slice_zero (by decide)]
  refine List.foldl_ext _ _ _ fun r i hi => ?_
  rw [read_writeTelemetry_body hm (List.mem_range.mp hi)]

/-- A slot that holds a register truncated shows the two low bytes of the register (rules R142 and R143). -/
theorem read_writeTelemetry_slot {i lo hi : Nat} {v : I32} {h : i < 13} (hm : m.wf 32 = true) (hv : slots[i] = trunc16 v)
    (hlo : lo = 4 + 2 * i) (hhi : hi = 4 + 2 * i + 1) :
    (writeTelemetry m running slots).read lo = v.extractLsb' 0 8 ∧
      (writeTelemetry m running slots).read hi = v.extractLsb' 8 8 := by
  rw [read_writeTelemetry_body hm (by omega), read_writeTelemetry_body hm (by omega), writeTelemetryBody_eq,
    ← extractLsb'_low_trunc16, ← extractLsb'_high_trunc16, ← hv, hlo, hhi]
  exact read_writeSlots (writeTelemetryHeader_wf hm) (by simp) (by simpa using h)

/-- The frame written from the registers of a state, offset by offset. -/
theorem telemetryBytes_writeTelemetry (hm : m.wf 32 = true) (s : State) :
    TelemetryBytes s.running s.cmd s.vel s.pose s.ori (writeTelemetry m s.running (registerSlots s)) := by
  have htrailer : (writeTelemetry m s.running (registerSlots s)).read 31 = 0x5D := by
    rw [read_writeTelemetry hm, if_pos rfl]
  refine ⟨?_, ?_, ?_, ?_,
    fun j => read_writeTelemetry_slot hm (registerSlots_cmd s j) (by omega) (by omega),
    fun k => read_writeTelemetry_slot hm (registerSlots_vel s k) (by omega) (by omega),
    fun k => read_writeTelemetry_slot hm (registerSlots_pose s k) (by omega) (by omega),
    fun k => read_writeTelemetry_slot hm (registerSlots_ori s k) (by omega) (by omega),
    read_writeTelemetry_checksum hm, htrailer⟩
  all_goals rw [read_writeTelemetry_header hm (by decide), read_writeTelemetryHeader hm]; rfl

end

/-! The encoding as a change of state. -/

theorem encodeTelemetry_tx (s : State) :
    (encodeTelemetry s).tx = writeTelemetry s.tx s.running (registerSlots s) := by
  rw [encodeTelemetry, State.withTx_tx]

/-- An encoding and its result write the transmit buffer and the output port alone (rule R140). -/
theorem encodeTelemetry_withOut (s : State) (o : Output) :
    (encodeTelemetry s).withOut o = { s with tx := (encodeTelemetry s).tx, out := o } := by
  rw [encodeTelemetry_tx, encodeTelemetry]
  generalize writeTelemetry s.tx s.running (registerSlots s) = m
  rfl

theorem telemetryBytes_encodeTelemetry {s : State} (hm : s.tx.wf 32 = true) :
    TelemetryBytes s.running s.cmd s.vel s.pose s.ori (encodeTelemetry s).tx := by
  rw [encodeTelemetry_tx]
  exact telemetryBytes_writeTelemetry hm s

theorem read_encodeTelemetry_above {s : State} {y : Nat} (hm : s.tx.wf 32 = true) (hy : 32 ≤ y) :
    (encodeTelemetry s).tx.read y = s.tx.read y := by
  rw [encodeTelemetry_tx, read_writeTelemetry_above hm hy]

/-- XOR8 over the bytes below the checksum of an encoded frame, and over the checksum with them (rule R148). -/
theorem xor8_encodeTelemetry {s : State} (hm : s.tx.wf 32 = true) :
    xor8 ((encodeTelemetry s).tx.slice 0 32) 0 30 = (encodeTelemetry s).tx.read 30 ∧
      xor8 ((encodeTelemetry s).tx.slice 0 32) 0 31 = 0 := by
  have hsum : xor8 ((encodeTelemetry s).tx.slice 0 32) 0 30 = (encodeTelemetry s).tx.read 30 := by
    rw [xor8_slice_zero (by decide), encodeTelemetry_tx, ← read_writeTelemetry_checksum hm]
  refine ⟨hsum, ?_⟩
  rw [xor8_succ (by decide) (by rw [Memory.length_slice]; decide), hsum, Memory.byteAt_slice (by decide)]
  exact BitVec.xor_self

/-! The operations. The proofs below name the buffer written `m`: what they need of it stands in the lemmas above, and
matching against the statements would otherwise run the encoder. -/

theorem exec_tlmEncode (s : State) : exec .tlmEncode s =
    .next { s with
      tx := (encodeTelemetry s).tx
      out := .frame ((List.range 32).map (encodeTelemetry s).tx.read) } := by
  rw [← encodeTelemetry_withOut, ← State.buffer_tx_eq_map_range]
  rfl

/-- The tick is the encoding of the state that holds the snapshot, with another result (rule R146). -/
theorem exec_tlmTick (poseIn oriIn : Vector I32 3) (s : State) : exec (.tlmTick poseIn oriIn) s =
    .next { s.withSensors poseIn oriIn with
      tx := (encodeTelemetry (s.withSensors poseIn oriIn)).tx
      out := .sent ((List.range 32).map (encodeTelemetry (s.withSensors poseIn oriIn)).tx.read) } := by
  rw [← encodeTelemetry_withOut, ← State.buffer_tx_eq_map_range]
  rfl

/-- Settles O22: the encoding leaves the frame of the registers in the buffer, and the bytes above it alone. -/
theorem telemetryEncodeWritesTheFrame : Obligations.TelemetryEncodeWritesTheFrame := by
  intro s hm
  have hexec := exec_tlmEncode s
  have hframe := telemetryBytes_encodeTelemetry hm
  have habove := fun x => read_encodeTelemetry_above (y := x) hm
  generalize (encodeTelemetry s).tx = m at hexec hframe habove
  exact ⟨_, hexec, hframe, rfl, habove, rfl⟩

/-- Settles O21: the frame is that of the registers with the snapshot in them; the snapshot leaves the buffer alone. -/
theorem telemetryTickSendsTheRegisters : Obligations.TelemetryTickSendsTheRegisters := by
  intro s poseIn oriIn hm
  have hsnap : (s.withSensors poseIn oriIn).tx.wf 32 = true := hm
  have hexec := exec_tlmTick poseIn oriIn s
  have hframe := telemetryBytes_encodeTelemetry hsnap
  have habove := fun x => read_encodeTelemetry_above (y := x) hsnap
  generalize (encodeTelemetry (s.withSensors poseIn oriIn)).tx = m at hexec hframe habove
  exact ⟨_, hexec, hframe, rfl, habove, rfl⟩

/-- Settles O24: the checksum cancels against the bytes it is taken over. -/
theorem telemetryChecksumRoundTrip : Obligations.TelemetryChecksumRoundTrip := by
  intro s hm
  have hexec := exec_tlmEncode s
  obtain ⟨hsum, hzero⟩ := xor8_encodeTelemetry hm
  generalize (encodeTelemetry s).tx = m at hexec hsum hzero
  exact ⟨_, hexec, exec_xor8_of_eq (by decide) hsum, exec_xor8_of_eq (by decide) hzero⟩

end Sys2Proof.Machine
end

section
/-! The order of binary32 patterns, and CLAMP (43_pid.md rules R158 and R160). -/

namespace Sys2Proof.Machine

/-! Magnitudes: the low 31 bits of a pattern, read as a number, order the magnitudes (rule R155). -/

/-- The low 31 bits as a significand and an exponent, the form in which `unitsOfLow_scaled` reads them. -/
theorem exists_significand_exponent (p : Nat) :
    ∃ r j, p = r + j * 2 ^ 23 ∧ r < 2 ^ 24 ∧ (j = 0 ∨ 2 ^ 23 ≤ r) := by
  by_cases hsub : p < 2 ^ 23
  · exact ⟨p, 0, by omega, by omega, .inl rfl⟩
  · exact ⟨p % 2 ^ 23 + 2 ^ 23, p / 2 ^ 23 - 1, by omega, by omega, .inr (by omega)⟩

@[simp] theorem unitsOfLow_zero : unitsOfLow 0 = 0 := rfl

/-- The next pattern has the next significand at the same exponent; a carry to `2^24` is one as well. -/
theorem unitsOfLow_strictMono : StrictMono unitsOfLow := by
  refine strictMono_nat_of_lt_succ fun p => ?_
  obtain ⟨r, j, rfl, hr, hj⟩ := exists_significand_exponent p
  have hnext : r + j * 2 ^ 23 + 1 = r + 1 + j * 2 ^ 23 := by omega
  rw [hnext, unitsOfLow_scaled hr.le hj, unitsOfLow_scaled hr (hj.imp id Nat.le_succ_of_le)]
  exact Nat.mul_lt_mul_of_pos_right (Nat.lt_succ_self r) (Nat.two_pow_pos j)

theorem funits_eq_unitsOfLow (x : F32) : funits x = unitsOfLow (x.toNat % 2 ^ 31) := by
  have hexp : x.toNat % 2 ^ 31 / 2 ^ 23 = x.toNat / 2 ^ 23 % 2 ^ 8 := by omega
  have hfrac : x.toNat % 2 ^ 31 % 2 ^ 23 = x.toNat % 2 ^ 23 := by omega
  rw [funits, unitsOfLow, hexp, hfrac, fexp_toNat, ffrac_toNat]

/-! `forder` places patterns as their values lie. -/

/-- The place orders patterns as the value does: by magnitude, mirrored for a set sign, with both zeros at 0. -/
theorem forder_lt_forder_iff (a b : F32) : forder a < forder b ↔ fvalue a < fvalue b := by
  have hab := unitsOfLow_strictMono.lt_iff_lt (a := a.toNat % 2 ^ 31) (b := b.toNat % 2 ^ 31)
  have hba := unitsOfLow_strictMono.lt_iff_lt (a := b.toNat % 2 ^ 31) (b := a.toNat % 2 ^ 31)
  have ha := unitsOfLow_strictMono.lt_iff_lt (a := 0) (b := a.toNat % 2 ^ 31)
  have hb := unitsOfLow_strictMono.lt_iff_lt (a := 0) (b := b.toNat % 2 ^ 31)
  rw [unitsOfLow_zero] at ha hb
  simp only [forder, fvalue, funits_eq_unitsOfLow]
  cases fsign a <;> cases fsign b <;> simp only [Bool.false_eq_true, if_true, if_false] <;> omega

theorem forder_le_forder_iff (a b : F32) : forder a ≤ forder b ↔ fvalue a ≤ fvalue b := by
  rw [← not_lt, ← not_lt, forder_lt_forder_iff]

theorem forder_of_isInf {x : F32} (h : isInf x = true) :
    forder x = if fsign x then -0x7F800000 else 0x7F800000 := by
  simp only [isInf, fexp_toNat, ffrac_toNat, Bool.and_eq_true, decide_eq_true_eq] at h
  have hlow : x.toNat % 2 ^ 31 = 0x7F800000 := by omega
  rw [forder, hlow]
  rfl

/-- A finite pattern lies between the two infinities. -/
theorem forder_of_isFinite {x : F32} (h : isFinite x = true) : -0x7F800000 < forder x ∧ forder x < 0x7F800000 := by
  simp only [isFinite, fexp_toNat, decide_eq_true_eq] at h
  have hlow : x.toNat % 2 ^ 31 < 0x7F800000 := by omega
  unfold forder
  split <;> omega

theorem isInf_not_isNaN {x : F32} (h : isInf x = true) : isNaN x = false := by
  simp only [isInf, Bool.and_eq_true, decide_eq_true_eq] at h
  obtain ⟨-, hfrac⟩ := h
  simp [isNaN, hfrac]

/-! The comparisons. `flt` is the one to reason about: the other two are it with the operands exchanged. -/

theorem flt_iff {a b : F32} : flt a b = true ↔ isNaN a = false ∧ isNaN b = false ∧ forder a < forder b := by
  simp [flt, and_assoc]

theorem fle_iff {a b : F32} : fle a b = true ↔ isNaN a = false ∧ isNaN b = false ∧ forder a ≤ forder b := by
  simp [fle, and_assoc]

theorem fgt_eq_flt (a b : F32) : fgt a b = flt b a := by
  rw [fgt, flt, Bool.and_comm (!isNaN a)]

theorem flt_eq_decide {a b : F32} (ha : isNaN a = false) (hb : isNaN b = false) :
    flt a b = decide (forder a < forder b) := by
  simp [flt, ha, hb]

/-- Operands that are no NaN are comparable. -/
theorem fle_eq_not_flt {a b : F32} (ha : isNaN a = false) (hb : isNaN b = false) : fle a b = !flt b a := by
  rw [flt_eq_decide hb ha, ← decide_not]
  simp [fle, ha, hb]

theorem flt_eq_false_of_isNaN {a b : F32} (h : isNaN a = true ∨ isNaN b = true) : flt a b = false := by
  rcases h with h | h <;> simp [flt, h]

theorem fle_eq_false_of_isNaN {a b : F32} (h : isNaN a = true ∨ isNaN b = true) : fle a b = false := by
  rcases h with h | h <;> simp [fle, h]

theorem fle_refl {a : F32} (h : isNaN a = false) : fle a a = true :=
  fle_iff.mpr ⟨h, h, le_rfl⟩

section
variable {a b : F32}

theorem flt_iff_fvalue (ha : isFinite a = true) (hb : isFinite b = true) :
    flt a b = true ↔ fvalue a < fvalue b := by
  rw [flt_eq_decide (isFinite_not_isNaN ha) (isFinite_not_isNaN hb), decide_eq_true_iff, forder_lt_forder_iff]

theorem fle_iff_fvalue (ha : isFinite a = true) (hb : isFinite b = true) :
    fle a b = true ↔ fvalue a ≤ fvalue b := by
  rw [fle_eq_not_flt (isFinite_not_isNaN ha) (isFinite_not_isNaN hb), Bool.not_eq_true', ← Bool.not_eq_true,
    flt_iff_fvalue hb ha, not_lt]

/-- The infinity of sign 1 is below every finite operand, and no other infinity is. -/
theorem flt_inf_finite (ha : isInf a = true) (hb : isFinite b = true) : flt a b = fsign a := by
  obtain ⟨hlow, hhigh⟩ := forder_of_isFinite hb
  rw [flt_eq_decide (isInf_not_isNaN ha) (isFinite_not_isNaN hb), forder_of_isInf ha]
  cases fsign a
  · exact decide_eq_false hhigh.not_gt
  · exact decide_eq_true hlow

/-- The infinity of sign 0 is above every finite operand, and no other infinity is. -/
theorem flt_finite_inf (ha : isInf a = true) (hb : isFinite b = true) : flt b a = !fsign a := by
  obtain ⟨hlow, hhigh⟩ := forder_of_isFinite hb
  rw [flt_eq_decide (isFinite_not_isNaN hb) (isInf_not_isNaN ha), forder_of_isInf ha]
  cases fsign a
  · exact decide_eq_true hhigh
  · exact decide_eq_false hlow.not_gt

theorem flt_inf_inf (ha : isInf a = true) (hb : isInf b = true) : flt a b = (fsign a && !fsign b) := by
  rw [flt_eq_decide (isInf_not_isNaN ha) (isInf_not_isNaN hb), forder_of_isInf ha, forder_of_isInf hb]
  cases fsign a <;> cases fsign b <;> rfl

end

/-- The operand of rule R158's exclusive or is the one bit 31. -/
theorem getLsbD_fneg (a : F32) (i : Nat) :
    (fneg a).getLsbD i = if i = 31 then !a.getLsbD i else a.getLsbD i := by
  have hbit : (0x80000000 : F32) = BitVec.twoPow 32 31 := rfl
  rw [fneg, hbit, BitVec.getLsbD_xor, BitVec.getLsbD_twoPow]
  by_cases h : i = 31
  · simp [h]
  · simp [h, Ne.symm h]

/-- Settles O59: each comparison is `flt`, and `flt` compares places, which lie as the values do. -/
theorem comparisonsOrderValues : Obligations.ComparisonsOrderValues := by
  intro a b
  refine ⟨fun ha hb => ?finite, fun h => ?nan, fun ha hb => ?infFinite, fun ha hb => ?infInf,
    fun i _ => getLsbD_fneg a i, isNaN_fneg a, rfl⟩
  case finite =>
    rw [fgt_eq_flt]
    exact ⟨flt_iff_fvalue hb ha, flt_iff_fvalue ha hb, fle_iff_fvalue ha hb⟩
  case nan =>
    rw [fgt_eq_flt]
    exact ⟨flt_eq_false_of_isNaN h.symm, flt_eq_false_of_isNaN h, fle_eq_false_of_isNaN h⟩
  case infFinite =>
    have hna := isInf_not_isNaN ha
    have hnb := isFinite_not_isNaN hb
    have hbelow := flt_inf_finite ha hb
    have habove := flt_finite_inf ha hb
    simp only [fgt_eq_flt, fle_eq_not_flt hna hnb, fle_eq_not_flt hnb hna, hbelow, habove, Bool.not_not, and_self]
  case infInf =>
    have hle := fle_eq_not_flt (isInf_not_isNaN ha) (isInf_not_isNaN hb)
    simp only [fgt_eq_flt, hle, flt_inf_inf ha hb, flt_inf_inf hb ha, Bool.and_comm, Bool.not_and, Bool.not_not,
      and_self]

/-! CLAMP (rule R160). -/

theorem exec_clamp (x lo hi : F32) (s : State) :
    exec (.clamp x lo hi) s = .next (s.withOut (.float (fclamp x lo hi))) := rfl

/-- The result lies within limits that are not crossed: where a test fails, its bound holds of the operand. -/
theorem fclamp_between {x lo hi : F32} (hx : isNaN x = false) (hle : fle lo hi = true) :
    fle lo (fclamp x lo hi) = true ∧ fle (fclamp x lo hi) hi = true := by
  obtain ⟨hlo, hhi, -⟩ := fle_iff.mp hle
  rcases fclamp_cases x lo hi with ⟨-, hy⟩ | ⟨-, -, hy⟩ | ⟨habove, hbelow, hy⟩ <;> rw [hy]
  · exact ⟨hle, fle_refl hhi⟩
  · exact ⟨fle_refl hlo, hle⟩
  · rw [fle_eq_not_flt hlo hx, fle_eq_not_flt hx hhi, ← fgt_eq_flt x hi, habove, hbelow]
    exact ⟨rfl, rfl⟩

/-- Limits that are crossed leave no place between them: the operand fails one of the tests. -/
theorem fclamp_of_crossed {x lo hi : F32} (hx : isNaN x = false) (hlt : flt hi lo = true) :
    fclamp x lo hi = if fgt x hi = true then hi else lo := by
  obtain ⟨hhi, hlo, horder⟩ := flt_iff.mp hlt
  rcases fclamp_cases x lo hi with ⟨habove, hy⟩ | ⟨habove, -, hy⟩ | ⟨habove, hbelow, -⟩
  · rw [hy, if_pos habove]
  · rw [hy, if_neg (Bool.eq_false_iff.mp habove)]
  · rw [fgt_eq_flt, flt_eq_decide hhi hx, decide_eq_false_iff_not, not_lt] at habove
    rw [flt_eq_decide hx hlo, decide_eq_false_iff_not, not_lt] at hbelow
    exact absurd horder (hbelow.trans habove).not_gt

/-- Settles O32: the row gives `fclamp`, whose tests run in the order of rule R160. -/
theorem clampBoundsItsOperand : Obligations.ClampBoundsItsOperand := by
  intro s x lo hi
  refine ⟨fclamp x lo hi, exec_clamp x lo hi s, fun h => if_pos h, fun habove hbelow => ?_, fun habove hbelow => ?_,
    fclamp_nan, fclamp_between, fclamp_of_crossed⟩
  · simp [fclamp, habove, hbelow]
  · simp [fclamp, habove, hbelow]

end Sys2Proof.Machine
end

section
/-! The rounding function as a pattern with a sign: the bridge from `roundUnits_spec`, which speaks of magnitudes, to the
exact values of rules R156, R157 and R180. -/

namespace Sys2Proof.Machine

/-! An integer as its sign and its magnitude. -/

/-- The integer of a sign and a magnitude, the form in which `fvalue` reads a pattern. -/
def withSign (neg : Bool) (m : Nat) : Int :=
  if neg then -(m : Int) else (m : Int)

theorem withSign_false (m : Nat) : withSign false m = m := rfl

theorem withSign_true (m : Nat) : withSign true m = -(m : Int) := rfl

theorem fvalue_eq_withSign (x : F32) : fvalue x = withSign (fsign x) (funits x) := rfl

theorem withSign_natAbs (z : Int) : withSign (decide (z < 0)) z.natAbs = z := by
  by_cases hz : z < 0
  · rw [decide_eq_true hz, withSign_true]; omega
  · rw [decide_eq_false hz, withSign_false]; omega

@[simp] theorem natAbs_withSign (neg : Bool) (m : Nat) : (withSign neg m).natAbs = m := by
  cases neg <;> simp [withSign]

@[simp] theorem abs_withSign (neg : Bool) (m : Nat) : |withSign neg m| = m := by
  rw [Int.abs_eq_natAbs, natAbs_withSign]

theorem withSign_mul (neg : Bool) (m n : Nat) : withSign neg (m * n) = withSign neg m * n := by
  cases neg <;> simp [withSign]

/-- A magnitude above 0 keeps its sign visible. -/
theorem decide_withSign_neg {m : Nat} (hm : 0 < m) (neg : Bool) : decide (withSign neg m < 0) = neg := by
  cases neg <;> simp [withSign, hm]

/-- Integers of one sign are as far apart as their magnitudes. -/
theorem abs_withSign_sub (neg : Bool) (m n : Nat) : |withSign neg m - withSign neg n| = |(m : Int) - n| := by
  cases neg
  · rfl
  · rw [withSign_true, withSign_true, neg_sub_neg, abs_sub_comm]

/-- Integers of any signs are at least as far apart as their magnitudes. -/
theorem abs_sub_le_abs_withSign_sub (neg neg' : Bool) (m n : Nat) :
    |(m : Int) - n| ≤ |withSign neg m - withSign neg' n| := by
  simpa using abs_abs_sub_abs_le_abs_sub (withSign neg m) (withSign neg' n)

/-- Where integers are no farther apart than their magnitudes, one of them is 0 or their signs agree. -/
theorem eq_zero_or_withSign_eq {neg neg' : Bool} {m n : Nat}
    (h : |(m : Int) - n| = |withSign neg m - withSign neg' n|) : m = 0 ∨ withSign neg' n = withSign neg n := by
  have hmag := abs_cases ((m : Int) - n)
  have hval := abs_cases (withSign neg m - withSign neg' n)
  cases neg <;> cases neg'
  case false.false | true.true => exact .inr rfl
  all_goals
    simp only [withSign_false, withSign_true] at h hval ⊢
    omega

/-! A pattern made of a sign and rounded low bits. -/

theorem fvalue_fpack {neg : Bool} {p : Nat} (h : p < 2 ^ 31) : fvalue (fpack neg p) = withSign neg (unitsOfLow p) := by
  rw [fvalue_eq_withSign, fsign_fpack h, funits_fpack h]

theorem isFinite_fpack {neg : Bool} {p : Nat} (h : p < 0x7F800000) : isFinite (fpack neg p) = true := by
  rw [isFinite, fexp_fpack (by omega), decide_eq_true_eq]
  omega

@[simp] theorem roundUnits_zero (k : Nat) : roundUnits 0 k = 0 := by
  simp [roundUnits, roundShift]

/-- A magnitude that has a significand of 24 bits and does not overflow is kept as it is. -/
theorem unitsOfLow_roundUnits {a i : Nat} (ha : a < 2 ^ 24) (hm : a * 2 ^ i < overflowUnits 0) :
    unitsOfLow (roundUnits (a * 2 ^ i) 0) = a * 2 ^ i := by
  obtain ⟨-, hnear⟩ := (roundUnits_spec (a * 2 ^ i) 0).1 hm
  obtain ⟨hle, -⟩ := hnear a i ha
  simp only [pow_zero, mul_one, sub_self, abs_zero, abs_nonpos_iff, sub_eq_zero] at hle
  exact_mod_cast hle.symm

/-- Below the overflow bound the rounded pattern is nearest among all values, those of the other sign included: they are
farther away than their magnitudes. -/
theorem nearestEven_roundUnits {m c : Nat} (hm : m < overflowUnits c) (neg : Bool) :
    NearestEven (withSign neg m) c (fpack neg (roundUnits m c)) := by
  have hlow := roundUnits_lt m c
  have hscaled (b : Bool) (n : Nat) : withSign b n * 2 ^ c = withSign b (n * 2 ^ c) := by
    rw [withSign_mul]; push_cast; rfl
  intro y _
  obtain ⟨a, i, ha, hy⟩ := funits_representable y
  obtain ⟨hle, heven⟩ := ((roundUnits_spec m c).1 hm).2 a i ha
  have hfar := abs_sub_le_abs_withSign_sub neg (fsign y) m (a * 2 ^ i * 2 ^ c)
  rw [fvalue_fpack hlow, fvalue_eq_withSign y, hy, hscaled, hscaled, abs_withSign_sub]
  refine ⟨hle.trans hfar, fun htie hne => ?_⟩
  rw [ffrac_fpack hlow]
  suffices roundUnits m c % 2 = 0 by omega
  have hmid := le_antisymm hle (htie ▸ hfar)
  by_cases hmag : a * 2 ^ i = unitsOfLow (roundUnits m c)
  · rcases eq_zero_or_withSign_eq (hmid.symm.trans htie) with rfl | hsame
    · rw [roundUnits_zero]
    · rw [← hscaled, ← hscaled, hmag] at hsame
      exact absurd (mul_right_cancel₀ (pow_ne_zero c two_ne_zero) hsame) (hmag ▸ hne)
  · exact heven hmid hmag

/-- Rules R156 and R157: the exact value of a sign and `m` units of `2^-(149+c)` is rounded once. -/
theorem rounded_roundUnits (neg : Bool) (m c : Nat) : Rounded (withSign neg m) c (fpack neg (roundUnits m c)) := by
  unfold Rounded
  rw [natAbs_withSign]
  refine ⟨fun hm => ⟨isFinite_fpack ((roundUnits_spec m c).1 hm).1, nearestEven_roundUnits hm neg⟩, fun hm => ?_⟩
  have hpos : 0 < m := by
    have := Nat.two_pow_pos (252 + c)
    unfold overflowUnits at hm
    omega
  rw [decide_withSign_neg hpos, (roundUnits_spec m c).2 hm, finf]

end Sys2Proof.Machine
end

section
/-! The two conversions I2F and F2I (44_mixing_pipeline.md rules R180 and R181). -/

namespace Sys2Proof.Machine

/-! I2F (rule R180). -/

theorem exec_i2f (i : I32) (s : State) : exec (.i2f i) s = .next (s.withOut (.float (intToFloat i))) := rfl

/-- An `i32` in units of `2^-149`, as the sign and the magnitude that are rounded. -/
theorem toInt_units_eq_withSign (i : I32) :
    i.toInt * 2 ^ 149 = withSign (decide (i.toInt < 0)) (i.toInt.natAbs * 2 ^ 149) := by
  rw [withSign_mul, withSign_natAbs]
  push_cast
  rfl

/-- No `i32` overflows binary32. -/
theorem toInt_units_lt_overflow (i : I32) : i.toInt.natAbs * 2 ^ 149 < overflowUnits 0 := by
  have hlo := i.le_toInt
  have hhi := i.toInt_lt
  unfold overflowUnits
  omega

theorem rounded_intToFloat (i : I32) : Rounded (i.toInt * 2 ^ 149) 0 (intToFloat i) := by
  rw [toInt_units_eq_withSign]
  exact rounded_roundUnits _ _ _

/-- Up to `2^24` in magnitude the significand holds the integer; `2^24` itself is one bit at a higher exponent. -/
theorem fvalue_intToFloat {i : I32} (h : i.toInt.natAbs ≤ 2 ^ 24) : fvalue (intToFloat i) = i.toInt * 2 ^ 149 := by
  obtain ⟨a, j, ha, hm⟩ : ∃ a j, a < 2 ^ 24 ∧ i.toInt.natAbs * 2 ^ 149 = a * 2 ^ j := by
    rcases h.lt_or_eq with hlt | heq
    · exact ⟨_, 149, hlt, rfl⟩
    · exact ⟨1, 173, by omega, by omega⟩
  have hfit := toInt_units_lt_overflow i
  rw [intToFloat, fvalue_fpack (roundUnits_lt _ _), toInt_units_eq_withSign]
  rw [hm] at hfit ⊢
  rw [unitsOfLow_roundUnits ha hfit]

theorem intToFloat_zero : intToFloat 0 = 0x00000000 := by decide

/-- Settles O36: the magnitude of an `i32` is below the overflow bound, so that its one rounding is to nearest. -/
theorem intToFloatIsNearest : Obligations.IntToFloatIsNearest := by
  intro s i
  have hfit : (i.toInt * 2 ^ 149).natAbs < overflowUnits 0 := by
    rw [toInt_units_eq_withSign, natAbs_withSign]
    exact toInt_units_lt_overflow i
  obtain ⟨hfin, hnear⟩ := (rounded_intToFloat i).1 hfit
  refine ⟨intToFloat i, exec_i2f i s, hfin, hnear, fvalue_intToFloat, fun h => ?_⟩
  rw [h, intToFloat_zero]

/-! F2I (rule R181). -/

theorem exec_f2i (x : F32) (s : State) : exec (.f2i x) s = .next (s.withOut (.int (floatToInt x))) := rfl

/-- The range in which rule R181 fixes the result: the finite values whose integer part is an `i32`. -/
abbrev inI32Range (x : F32) : Prop :=
  isFinite x = true ∧ -2147483649 * 2 ^ 149 < fvalue x ∧ fvalue x < 2147483648 * 2 ^ 149

/-- The range read off the sign and the integer part of the magnitude, which is what the conversion tests. -/
theorem inI32Range_iff (x : F32) :
    inI32Range x ↔ isFinite x = true ∧ if fsign x then funits x / 2 ^ 149 ≤ 2 ^ 31 else funits x / 2 ^ 149 < 2 ^ 31 := by
  refine and_congr_right fun _ => ?_
  rw [fvalue_eq_withSign]
  cases fsign x
  · simp only [withSign_false, Bool.false_eq_true, if_false]
    omega
  · simp only [withSign_true, if_true]
    omega

/-- Discarding the fraction keeps the sign. -/
theorem tdiv_fvalue (x : F32) : (fvalue x).tdiv (2 ^ 149) = withSign (fsign x) (funits x / 2 ^ 149) := by
  rw [fvalue_eq_withSign]
  cases fsign x
  · exact (Int.ofNat_tdiv _ _).symm
  · rw [withSign_true, withSign_true, Int.neg_tdiv, Int.ofNat_tdiv]
    rfl

theorem floatToInt_eq (x : F32) :
    floatToInt x = if inI32Range x then BitVec.ofInt 32 ((fvalue x).tdiv (2 ^ 149)) else Config.f2iOutOfRange x := by
  rw [tdiv_fvalue]
  simp only [inI32Range_iff, floatToInt]
  cases isFinite x
  · simp
  · cases fsign x
    · simp only [withSign_false, BitVec.ofInt_natCast, true_and, Bool.false_eq_true, if_true, if_false]
    · simp only [withSign_true, true_and, if_true]

/-- The integer part of a value inside the range is an `i32`. -/
theorem tdiv_fvalue_bounds {x : F32} (h : inI32Range x) :
    -2 ^ 31 ≤ (fvalue x).tdiv (2 ^ 149) ∧ (fvalue x).tdiv (2 ^ 149) < 2 ^ 31 := by
  obtain ⟨-, hquot⟩ := (inI32Range_iff x).mp h
  rw [tdiv_fvalue]
  cases hsign : fsign x
  · rw [hsign, if_neg Bool.false_ne_true] at hquot
    rw [withSign_false]
    omega
  · rw [hsign, if_pos rfl] at hquot
    rw [withSign_true]
    omega

theorem toInt_floatToInt {x : F32} (h : inI32Range x) : (floatToInt x).toInt = (fvalue x).tdiv (2 ^ 149) := by
  obtain ⟨hlo, hhi⟩ := tdiv_fvalue_bounds h
  rw [floatToInt_eq, if_pos h]
  exact BitVec.toInt_ofInt_eq_self (by decide) hlo hhi

/-- A pattern is a NaN, an infinity or finite. -/
theorem isFinite_of_not_isNaN_not_isInf {x : F32} (hn : isNaN x = false) (hi : isInf x = false) : isFinite x = true := by
  simp_all [isNaN, isInf, isFinite]

/-- What lies between finite values is finite: the places of the infinities are outside those of all finite values. -/
theorem isFinite_of_between {a x b : F32} (ha : isFinite a = true) (hb : isFinite b = true)
    (hax : fle a x = true) (hxb : fle x b = true) : isFinite x = true := by
  obtain ⟨-, hx, hlo⟩ := fle_iff.mp hax
  obtain ⟨-, -, hhi⟩ := fle_iff.mp hxb
  refine isFinite_of_not_isNaN_not_isInf hx (Bool.eq_false_iff.mpr fun hinf => ?_)
  have hplace := forder_of_isInf hinf
  have hposa := forder_of_isFinite ha
  have hposb := forder_of_isFinite hb
  split at hplace <;> omega

/-- The symmetric limits `-m` and `m` of rule R164. -/
theorem fclamp_symmetric {x m : F32} (hx : isNaN x = false) (hm : isFinite m = true) (h0 : fle 0x00000000 m = true) :
    isFinite (fclamp x (fneg m) m) = true ∧ -fvalue m ≤ fvalue (fclamp x (fneg m) m) ∧
      fvalue (fclamp x (fneg m) m) ≤ fvalue m := by
  have hm' : isFinite (fneg m) = true := (isFinite_fneg m).trans hm
  have hzero : (0 : Int) ≤ fvalue m := (fle_iff_fvalue (by decide) hm).mp h0
  have hlimits : fle (fneg m) m = true := by
    rw [fle_iff_fvalue hm' hm, fvalue_fneg]
    omega
  obtain ⟨hlo, hhi⟩ := fclamp_between hx hlimits
  have hfin := isFinite_of_between hm' hm hlo hhi
  rw [fle_iff_fvalue hm' hfin, fvalue_fneg] at hlo
  exact ⟨hfin, hlo, (fle_iff_fvalue hfin hm).mp hhi⟩

/-- Settles O37: the conversion is `floatToInt_eq`, and a clamped number is in its range. -/
theorem floatToIntTruncates : Obligations.FloatToIntTruncates := by
  intro s x
  refine ⟨floatToInt x, exec_f2i x s, toInt_floatToInt, fun h => (floatToInt_eq x).trans (if_neg h),
    fun m hx hm h0 hmax => ?_⟩
  obtain ⟨hfin, hlo, hhi⟩ := fclamp_symmetric hx hm h0
  exact ⟨hfin, by omega, by omega⟩

end Sys2Proof.Machine
end

section
/-! TDIV and the gate of the control tick (44_mixing_pipeline.md rules R182 and R196). -/

namespace Sys2Proof.Machine

/-! TDIV (rule R182). -/

theorem exec_tdiv (n : Int) (d : Nat) (s : State) : exec (.tdiv n d) s = .next (s.withOut (.integer (truncDiv n d))) :=
  rfl

/-- The quotient toward zero is rule R182's formula, the magnitude's quotient with the dividend's sign. -/
theorem truncDiv_eq {d : Nat} (hd : 0 < d) (n : Int) : truncDiv n d = n.sign * ((n.natAbs / d : Nat) : Int) := by
  rw [truncDiv, if_neg hd.ne', Int.ofNat_tdiv]
  rcases lt_trichotomy n 0 with hneg | rfl | hpos
  · rw [Int.sign_eq_neg_one_of_neg hneg, Int.ofNat_natAbs_of_nonpos hneg.le, Int.neg_tdiv, neg_one_mul, neg_neg]
  · simp
  · rw [Int.sign_eq_one_of_pos hpos, Int.natAbs_of_nonneg hpos.le, one_mul]

/-- Settles O40: for a divisor above 0 the row gives `truncDiv_eq`. -/
theorem divisionRoundsTowardZero : Obligations.DivisionRoundsTowardZero := by
  intro s n d hd
  rw [exec_tdiv, truncDiv_eq hd]
  rfl

/-! The gate (rule R196). -/

theorem exec_ctrlTick (fbIn : Vector I32 4) (tgt : Vector F32 3) (s : State) :
    exec (.ctrlTick fbIn tgt) s = .next (controlTick fbIn tgt s) := rfl

theorem exec_mixFwd (m : Vector I32 4) (s : State) :
    exec (.mixFwd m) s = .next (s.withOut (.body (mixForward Config.kinematicL m))) := rfl

/-- Settles O44: the gate asks for `initialized` alone; the velocity written before it opens is that of MIX_FWD. -/
theorem controlTickIsGatedByInit : Obligations.ControlTickIsGatedByInit := by
  intro s fbIn tgt
  refine ⟨fun hshut => ⟨mixForward Config.kinematicL fbIn, ?_, exec_mixFwd fbIn s⟩,
    fun hopen => ⟨controlTick fbIn tgt s, exec_ctrlTick fbIn tgt s, ?_⟩⟩
  · rw [exec_ctrlTick, controlTick_ungated fbIn tgt s hshut]
    rfl
  · rw [controlTick_gated fbIn tgt s hopen, State.withOut_out, State.withOut_cmd]

end Sys2Proof.Machine
end

section
/-! The layout of encoded bytes: what stands at an offset of a list that is put together from parts. -/

namespace Sys2Proof.Machine

/-! Bytes at an offset. -/

theorem byteAt_append_left {as bs : List Byte} {i : Nat} (h : i < as.length) : byteAt (as ++ bs) i = byteAt as i :=
  List.getD_append as bs _ i h

theorem byteAt_append_right (as bs : List Byte) (i : Nat) : byteAt (as ++ bs) (as.length + i) = byteAt bs i := by
  rw [byteAt, List.getD_append_right _ _ _ _ (Nat.le_add_right _ _), Nat.add_sub_cancel_left]
  rfl

theorem byteAt_take {b : List Byte} {n i : Nat} (h : i < n) : byteAt (b.take n) i = byteAt b i := by
  simp [byteAt, List.getD_eq_getElem?_getD, List.getElem?_take_of_lt h]

/-- Where every part has `w` bytes, byte `j` of part `i` stands at offset `w * i + j`. -/
theorem byteAt_flatMap {α : Type} {f : α → List Byte} {w : Nat} (hf : ∀ x, (f x).length = w) {l : List α} {i j : Nat}
    (hi : i < l.length) (hj : j < w) : byteAt (l.flatMap f) (w * i + j) = byteAt (f l[i]) j := by
  induction l generalizing i with
  | nil => cases hi
  | cons x l ih =>
    rw [List.flatMap_cons]
    cases i with
    | zero =>
      rw [Nat.mul_zero, Nat.zero_add, byteAt_append_left (hj.trans_eq (hf x).symm), List.getElem_cons_zero]
    | succ i =>
      rw [show w * (i + 1) + j = (f x).length + (w * i + j) by rw [hf, Nat.mul_succ]; omega, byteAt_append_right,
        ih (Nat.lt_of_succ_lt_succ hi), List.getElem_cons_succ]

/-! Vectors of few entries, entry by entry. -/

theorem vector_three_eta {α : Type} (v : Vector α 3) : #v[v[0], v[1], v[2]] = v := by
  ext i hi
  match i with
  | 0 | 1 | 2 => rfl

theorem vector_four_eta {α : Type} (v : Vector α 4) : #v[v[0], v[1], v[2], v[3]] = v := by
  ext i hi
  match i with
  | 0 | 1 | 2 | 3 => rfl

/-! Words in sequence, each low byte first. -/

/-- Reading words is the converse of writing them one behind the other. -/
theorem takeWords_eq_some_iff {n : Nat} {bs rest : List Byte} {ws : List (BitVec 32)} :
    takeWords n bs = some (ws, rest) ↔ ws.length = n ∧ bs = ws.flatMap le32 ++ rest := by
  induction n generalizing bs ws with
  | zero =>
    constructor
    · rintro ⟨⟩; exact ⟨rfl, rfl⟩
    · rintro ⟨hlen, rfl⟩
      rw [List.length_eq_zero_iff.mp hlen]; rfl
  | succ n ih =>
    constructor
    · intro h
      match bs with
      | b0 :: b1 :: b2 :: b3 :: bs =>
        simp only [takeWords] at h
        split at h
        · cases h
        · rename_i ws' rest' hrec
          cases h
          obtain ⟨hlen, rfl⟩ := ih.mp hrec
          exact ⟨congrArg Nat.succ hlen, by simp⟩
    · rintro ⟨hlen, rfl⟩
      obtain ⟨w, ws, rfl⟩ := List.exists_cons_of_length_eq_add_one hlen
      have hrec : takeWords n (ws.flatMap le32 ++ rest) = some (ws, rest) := ih.mpr ⟨Nat.succ.inj hlen, rfl⟩
      simp [le32, takeWords, hrec]

end Sys2Proof.Machine
end

section
/-! Fields and port requests: the decoder reads exactly what the encoder writes (30_encoding.md sections 1 and 4). -/

namespace Sys2Proof.Machine

/-! The inputs of the port requests (log entry 2). -/

theorem decodeRxInputs_eq_ok_iff {bs rest : List Byte} {i : Instr} :
    decodeRxInputs bs = .ok (i, rest) ↔
      ∃ frame, i = .rxFrame frame ∧ frame.length ≤ Config.rxCap ∧
        bs = BitVec.ofNat 8 frame.length :: (frame ++ rest) := by
  constructor
  · intro h
    cases bs with
    | nil => cases h
    | cons len bs =>
      simp only [decodeRxInputs] at h
      split_ifs at h with hcap hshort
      cases h
      have hlen : (bs.take len.toNat).length = len.toNat := List.length_take_of_le (not_lt.mp hshort)
      refine ⟨_, rfl, by omega, ?_⟩
      rw [hlen, BitVec.ofNat_toNat, BitVec.setWidth_eq, List.take_append_drop]
  · rintro ⟨frame, rfl, hlen, rfl⟩
    have hbyte : (BitVec.ofNat 8 frame.length).toNat = frame.length := by
      rw [Config.rxCap] at hlen
      rw [BitVec.toNat_ofNat]
      omega
    simp [decodeRxInputs, hbyte, not_lt.mpr hlen]

theorem decodeCtrlInputs_eq_ok_iff {bs rest : List Byte} {i : Instr} :
    decodeCtrlInputs bs = .ok (i, rest) ↔
      ∃ fbIn tgt, i = .ctrlTick fbIn tgt ∧ bs = fbIn.toList.flatMap le32 ++ tgt.toList.flatMap le32 ++ rest := by
  constructor
  · intro h
    unfold decodeCtrlInputs at h
    split at h
    · rename_i m0 m1 m2 m3 t0 t1 t2 rest' hw
      cases h
      exact ⟨_, _, rfl, (takeWords_eq_some_iff.mp hw).2⟩
    · cases h
  · rintro ⟨fbIn, tgt, rfl, rfl⟩
    have hw : takeWords 7 (fbIn.toList.flatMap le32 ++ tgt.toList.flatMap le32 ++ rest) =
        some ([fbIn[0], fbIn[1], fbIn[2], fbIn[3], tgt[0], tgt[1], tgt[2]], rest) := by
      refine takeWords_eq_some_iff.mpr ⟨rfl, ?_⟩
      rw [← vector_four_eta fbIn, ← vector_three_eta tgt]
      simp
    rw [decodeCtrlInputs, hw]
    simp only [vector_four_eta, vector_three_eta]

theorem decodeTlmInputs_eq_ok_iff {bs rest : List Byte} {i : Instr} :
    decodeTlmInputs bs = .ok (i, rest) ↔
      ∃ poseIn oriIn, i = .tlmTick poseIn oriIn ∧
        bs = poseIn.toList.flatMap le32 ++ oriIn.toList.flatMap le32 ++ rest := by
  constructor
  · intro h
    unfold decodeTlmInputs at h
    split at h
    · rename_i x y z roll pitch yaw rest' hw
      cases h
      exact ⟨_, _, rfl, (takeWords_eq_some_iff.mp hw).2⟩
    · cases h
  · rintro ⟨poseIn, oriIn, rfl, rfl⟩
    have hw : takeWords 6 (poseIn.toList.flatMap le32 ++ oriIn.toList.flatMap le32 ++ rest) =
        some ([poseIn[0], poseIn[1], poseIn[2], oriIn[0], oriIn[1], oriIn[2]], rest) := by
      refine takeWords_eq_some_iff.mpr ⟨rfl, ?_⟩
      rw [← vector_three_eta poseIn, ← vector_three_eta oriIn]
      simp
    rw [decodeTlmInputs, hw]
    simp only [vector_three_eta]

/-! The selector (rules R85 and R87). -/

/-- A selector of three bits that names no operation is read as reserved. -/
theorem decodeOp_reserved {op : BitVec 3} (hop : op.toNat = 0 ∨ 5 ≤ op.toNat) (bs : List Byte) :
    decodeOp (op.setWidth 8 :: bs) = .ok (.opReserved op, bs) := by
  have hback : (op.setWidth 8).extractLsb' 0 3 = op := by
    revert op; decide
  have hval : (op.setWidth 8).toNat = op.toNat := by
    revert op; decide
  have hlt := op.isLt
  rw [decodeOp, hback, hval, if_neg (by omega)]
  split
  case h_5 => rfl
  all_goals omega

/-- The encodings of the port requests are what the decoder reads as one, its inputs included. -/
theorem decodeOp_eq_ok_iff {bs rest : List Byte} {i : Instr} :
    decodeOp bs = .ok (i, rest) ↔
      isPortOperation i = true ∧ i.wellFormed = true ∧ ∃ pre, encode i = some (.op, pre) ∧ bs = pre ++ rest := by
  constructor
  · intro h
    cases bs with
    | nil => cases h
    | cons sel bs =>
      rw [decodeOp] at h
      split_ifs at h with hhigh
      split at h
      case h_1 hsel =>
        obtain rfl : sel = 0x01 := BitVec.eq_of_toNat_eq hsel
        cases h
        exact ⟨rfl, rfl, _, rfl, rfl⟩
      case h_2 hsel =>
        obtain rfl : sel = 0x02 := BitVec.eq_of_toNat_eq hsel
        obtain ⟨frame, rfl, hlen, rfl⟩ := decodeRxInputs_eq_ok_iff.mp h
        exact ⟨rfl, decide_eq_true hlen, _, rfl, rfl⟩
      case h_3 hsel =>
        obtain rfl : sel = 0x03 := BitVec.eq_of_toNat_eq hsel
        obtain ⟨fbIn, tgt, rfl, rfl⟩ := decodeCtrlInputs_eq_ok_iff.mp h
        exact ⟨rfl, rfl, _, rfl, rfl⟩
      case h_4 hsel =>
        obtain rfl : sel = 0x04 := BitVec.eq_of_toNat_eq hsel
        obtain ⟨poseIn, oriIn, rfl, rfl⟩ := decodeTlmInputs_eq_ok_iff.mp h
        exact ⟨rfl, rfl, _, rfl, rfl⟩
      case h_5 h1 h2 h3 h4 =>
        cases h
        have hlow : (sel.extractLsb' 0 3).toNat = sel.toNat := by
          rw [BitVec.extractLsb'_toNat, Nat.shiftRight_zero]
          omega
        have hfree : sel.toNat ≠ 1 ∧ sel.toNat ≠ 2 ∧ sel.toNat ≠ 3 ∧ sel.toNat ≠ 4 := ⟨h1, h2, h3, h4⟩
        refine ⟨rfl, ?_, _, rfl, ?_⟩
        · simp only [Instr.wellFormed, hlow, Bool.or_eq_true, decide_eq_true_eq]
          omega
        · rw [List.singleton_append, List.cons.injEq, and_iff_left rfl]
          apply BitVec.eq_of_toNat_eq
          rw [BitVec.toNat_setWidth, hlow]
          omega
  · rintro ⟨hport, hwf, pre, he, rfl⟩
    cases i with
    | init => cases he; rfl
    | rxFrame frame =>
      cases he
      exact decodeRxInputs_eq_ok_iff.mpr ⟨frame, rfl, of_decide_eq_true hwf, rfl⟩
    | ctrlTick fbIn tgt =>
      cases he
      exact decodeCtrlInputs_eq_ok_iff.mpr ⟨fbIn, tgt, rfl, rfl⟩
    | tlmTick poseIn oriIn =>
      cases he
      exact decodeTlmInputs_eq_ok_iff.mpr ⟨poseIn, oriIn, rfl, rfl⟩
    | opReserved op =>
      cases he
      simp only [Instr.wellFormed, Bool.or_eq_true, decide_eq_true_eq] at hwf
      exact decodeOp_reserved hwf rest
    | reset => cases he
    | _ => cases hport

/-- Settles O4: a port request has its encoding in the space of the ports, where `decodeOp_eq_ok_iff` speaks of it. -/
theorem portRequestsDecodeFromTheirEncoding : Obligations.PortRequestsDecodeFromTheirEncoding := by
  intro i sp bs rest hport hwf he
  obtain rfl : sp = .op := by
    cases i with
    | reset => cases he
    | init | rxFrame | ctrlTick | tlmTick | opReserved => cases he; rfl
    | _ => cases hport
  exact decodeOp_eq_ok_iff.mpr ⟨hport, hwf, bs, he, rfl⟩

/-! Fields (rules R73 and R103 to R109). -/

/-- The tag chooses the row, and the row takes as many bytes as its type is wide: what it takes encodes it. -/
theorem encode_of_decodeField {o lim : Nat} {bs rest : List Byte} {i : Instr} (h : decodeField o lim bs = .ok (i, rest)) :
    ∃ sp pre, encode i = some (sp, pre) ∧ bs = pre ++ rest := by
  cases bs with
  | nil => cases h
  | cons tag bs =>
    unfold decodeField at h
    dsimp only at h
    split at h
    case h_1 htag => cases h; exact ⟨_, _, rfl, rfl⟩
    case h_8 => cases h
    all_goals
      rename_i htag
      cases h
      rw [← tagOf_of_fieldTypeOf htag]
      exact ⟨_, _, rfl, by simp [tagOf]⟩

/-- Settles O3: the tag that heads the encoding chooses the row back, and the bytes behind it are the value's. -/
theorem fieldRowsDecodeFromTheirEncoding : Obligations.FieldRowsDecodeFromTheirEncoding := by
  intro i sp bs rest hrow hwf he
  cases i with
  | fldI16 o lim r | fldU16 o lim r => cases he; simp [decode, decodeField, fieldTypeOf, le16]
  | fldI32 o lim r | fldU32 o lim r | fldF32 o lim r => cases he; simp [decode, decodeField, fieldTypeOf, le32]
  | fldU8 o lim r => cases he; rfl
  | fldInvalid tag =>
    cases he
    have htag : fieldTypeOf tag = none := fieldTypeOf_eq_none.mpr (of_decide_eq_true hwf)
    simp [decode, decodeField, htag]
  | _ => cases hrow

end Sys2Proof.Machine
end

section
/-! Sealed frames, and the walk over fields written on the wire (30_encoding.md sections 1 and 3, 41_frame_decoder.md
section 1). -/

namespace Sys2Proof.Machine

/-! A sealed frame (rules R75, R76 and R83). -/

@[simp] theorem length_sealFrame (body : List Byte) : (sealFrame body).length = body.length + 2 := by
  simp [sealFrame]

theorem byteAt_sealFrame_body {body : List Byte} {i : Nat} (h : i < body.length) :
    byteAt (sealFrame body) i = byteAt body i :=
  byteAt_append_left h

theorem byteAt_sealFrame_checksum (body : List Byte) : byteAt (sealFrame body) body.length = xorBytes body :=
  byteAt_append_right body [xorBytes body, 0x5D] 0

theorem byteAt_sealFrame_trailer (body : List Byte) : byteAt (sealFrame body) (body.length + 1) = 0x5D :=
  byteAt_append_right body [xorBytes body, 0x5D] 1

theorem checksummed_sealFrame (body : List Byte) : Checksummed (sealFrame body) := by
  rw [Checksummed, length_sealFrame, Nat.add_sub_cancel, byteAt_sealFrame_checksum, xor8_sealFrame]

/-- A frame is sealed where its checksum and its trailer are right. -/
theorem eq_sealFrame {b body : List Byte} {x y : Byte} (hb : b = body ++ [x, y])
    (hx : byteAt b body.length = xor8 b 0 body.length) (hy : byteAt b (body.length + 1) = 0x5D) : b = sealFrame body := by
  subst hb
  rw [show byteAt (body ++ [x, y]) body.length = x from byteAt_append_right body [x, y] 0] at hx
  rw [byteAt_append_right body [x, y] 1] at hy
  obtain rfl : y = 0x5D := hy
  rw [hx, sealFrame]
  simp [xor8]

/-! Bytes taken from an offset on. -/

theorem byteAt_drop (b : List Byte) (n i : Nat) : byteAt (b.drop n) i = byteAt b (n + i) := by
  simp [byteAt, List.getD_eq_getElem?_getD]

theorem drop_eq_byteAt_cons {b : List Byte} {n : Nat} (h : n < b.length) : b.drop n = byteAt b n :: b.drop (n + 1) := by
  rw [List.drop_eq_getElem_cons h, byteAt, List.getD_eq_getElem _ _ h]

/-! The walk over fields on the wire (rule R124). -/

/-- The field that its bytes on the wire spell (rules R73 and R74). -/
def wireValue (f : FieldType × BitVec 32) : Field :=
  fieldAt f.1 (le32 f.2) 0

theorem length_wireField (f : FieldType × BitVec 32) : (wireField f).length = widthOf f.1 + 1 := by
  have hw := (widthOf_pos f.1).2
  simp [wireField, hw]

/-- A field decoding looks at the value's own bytes alone. -/
theorem fieldAt_congr {ty : FieldType} {b b' : List Byte} {o o' : Nat}
    (h : ∀ j < widthOf ty, byteAt b (o + j) = byteAt b' (o' + j)) : fieldAt ty b o = fieldAt ty b' o' := by
  have h0 := h 0 (widthOf_pos ty).1
  rw [Nat.add_zero, Nat.add_zero] at h0
  cases ty with
  | uint8 => simp only [fieldAt, memRead1, h0]
  | int16 | uint16 => simp only [fieldAt, memRead2, h0, h 1 (by decide)]
  | int32 | uint32 | float32 =>
    simp only [fieldAt, memRead4, h0, h 1 (by decide), h 2 (by decide), h 3 (by decide)]

/-- A declared field that is complete is taken, and the walk goes on behind it. -/
theorem walk_succ_of_complete {b : List Byte} {lim n off : Nat} {ty : FieldType}
    (htag : fieldTypeOf (byteAt b off) = some ty) (hw : off + 1 + widthOf ty ≤ lim) :
    walk b lim (n + 1) off =
      (walk b lim n (off + 1 + widthOf ty)).map fun r => (fieldAt ty b (off + 1) :: r.1, r.2) := by
  have hoff : ¬ lim ≤ off := by omega
  have hdec : decodeFieldAt b (off + 1) (byteAt b off) lim = .ok (fieldAt ty b (off + 1), off + 1 + widthOf ty) := by
    simp [decodeFieldAt, htag, boundField, hw]
  rw [walk, if_neg hoff, hdec]
  dsimp only
  cases walk b lim n (off + 1 + widthOf ty) <;> rfl

/-- The walk takes fields that stand complete on the wire one after the other. -/
theorem walk_wireFields {b post : List Byte} {lim n off : Nat} {fs : List (FieldType × BitVec 32)}
    (hdrop : b.drop off = fs.flatMap wireField ++ post) (hlim : off + (fs.flatMap wireField).length ≤ lim) :
    walk b lim (fs.length + n) off =
      (walk b lim n (off + (fs.flatMap wireField).length)).map fun r => (fs.map wireValue ++ r.1, r.2) := by
  induction fs generalizing off with
  | nil =>
    rw [List.length_nil, Nat.zero_add]
    exact (id_map (f := Except DecodeError) _).symm
  | cons f fs ih =>
    rw [List.flatMap_cons, List.append_assoc] at hdrop
    rw [List.flatMap_cons, List.length_append, length_wireField] at hlim ⊢
    have hwidth := (widthOf_pos f.1).2
    have hbytes (i : Nat) (hi : i < widthOf f.1 + 1) : byteAt b (off + i) = byteAt (wireField f) i := by
      rw [← byteAt_drop, hdrop, byteAt_append_left (hi.trans_eq (length_wireField f).symm)]
    have htag : fieldTypeOf (byteAt b off) = some f.1 := by
      rw [← Nat.add_zero off, hbytes 0 (Nat.succ_pos _)]
      exact fieldTypeOf_tagOf f.1
    have hvalue : fieldAt f.1 b (off + 1) = wireValue f := by
      refine fieldAt_congr fun j hj => ?_
      rw [Nat.add_assoc, Nat.add_comm 1, hbytes (j + 1) (by omega), Nat.zero_add]
      exact byteAt_take hj
    have hrest : b.drop (off + 1 + widthOf f.1) = fs.flatMap wireField ++ post := by
      rw [show off + 1 + widthOf f.1 = off + (wireField f).length by rw [length_wireField]; omega, ← List.drop_drop,
        hdrop, List.drop_left]
    rw [List.length_cons, Nat.add_right_comm, walk_succ_of_complete htag (by omega), ih hrest (by omega), hvalue,
      show off + 1 + widthOf f.1 + (fs.flatMap wireField).length
        = off + (widthOf f.1 + 1 + (fs.flatMap wireField).length) by omega]
    cases walk b lim n (off + (widthOf f.1 + 1 + (fs.flatMap wireField).length)) <;> rfl

/-! The ends of a walk (rules R124, R213 and R215). -/

theorem walk_no_room {b : List Byte} {lim n off : Nat} (h : lim ≤ off) : walk b lim (n + 1) off = .error .truncated := by
  rw [walk, if_pos h]

theorem walk_cut_value {b : List Byte} {lim n off : Nat} {ty : FieldType} (hoff : off < lim)
    (htag : fieldTypeOf (byteAt b off) = some ty) (hw : lim < off + 1 + widthOf ty) :
    walk b lim (n + 1) off = .error .truncated := by
  have hdec : decodeFieldAt b (off + 1) (byteAt b off) lim = .error .truncated := by
    simp [decodeFieldAt, htag, boundField, hw]
  rw [walk, if_neg (by omega), hdec]

theorem walk_unknown_tag {b : List Byte} {lim n off : Nat} (hoff : off < lim) (htag : 6 ≤ (byteAt b off).toNat) :
    walk b lim (n + 1) off = .error .unknownFieldType := by
  have hdec : decodeFieldAt b (off + 1) (byteAt b off) lim = .error .unknownFieldType := by
    simp [decodeFieldAt, fieldTypeOf_eq_none.mpr htag]
  rw [walk, if_neg (by omega), hdec]

/-! The layout of walked fields (rule R125). -/

theorem gainSetOf_eq_some_iff {l : List F32} {g : GainSet} : gainSetOf l = some g ↔ l = g.toList := by
  constructor
  · intro h
    unfold gainSetOf at h
    split at h
    · cases h; rfl
    · cases h
  · rintro rfl
    obtain ⟨⟨l⟩, hlen⟩ := g
    match l, hlen with
    | [_, _, _, _, _, _, _, _, _, _], _ => rfl

/-- The payloads of walked fields exist where every type is Float32; they are the fields' 32 bits. -/
theorem floatPayloads_wireValue (fs : List (FieldType × BitVec 32)) :
    floatPayloads (fs.map wireValue) = if ∀ f ∈ fs, f.1 = .float32 then some (fs.map Prod.snd) else none := by
  induction fs with
  | nil => rfl
  | cons f fs ih =>
    obtain ⟨ty, v⟩ := f
    cases ty with
    | float32 =>
      have hv : wireValue (.float32, v) = .float32 v := congrArg Field.float32 (join32_split v)
      have hcons : (∀ f ∈ (.float32, v) :: fs, f.1 = .float32) ↔ ∀ f ∈ fs, f.1 = .float32 := by simp
      rw [List.map_cons, hv, floatPayloads, ih, if_congr hcons rfl rfl]
      split_ifs <;> rfl
    | _ => simp [floatPayloads, wireValue, fieldAt, fieldI16, fieldU16, fieldI32, fieldU32, fieldU8]

/-! A wire frame. -/

section
variable {count : Byte} {fs : List (FieldType × BitVec 32)} {tail : List Byte}

/-- The offset behind the fields of a wire frame. -/
def fieldsEnd (fs : List (FieldType × BitVec 32)) : Nat :=
  3 + (fs.flatMap wireField).length

theorem length_wireFrame : (wireFrame count fs tail).length = fieldsEnd fs + tail.length + 2 := by
  simp only [wireFrame, length_sealFrame, List.length_cons, List.length_append, fieldsEnd]
  omega

theorem framed_wireFrame : Framed (wireFrame count fs tail) := by
  refine ⟨?_, rfl, rfl, fun _ => ?_⟩
  · rw [length_wireFrame, fieldsEnd]
    omega
  · rw [wireFrame, length_sealFrame]
    exact byteAt_sealFrame_trailer _

theorem drop_wireFrame : ∃ post, (wireFrame count fs tail).drop 3 = fs.flatMap wireField ++ (tail ++ post) :=
  ⟨_, List.append_assoc _ _ _⟩

/-- Behind the fields stands the tail. -/
theorem byteAt_fieldsEnd {tag : Byte} {v : List Byte} : byteAt (wireFrame count fs (tag :: v)) (fieldsEnd fs) = tag := by
  obtain ⟨post, hdrop⟩ := drop_wireFrame (count := count) (fs := fs) (tail := tag :: v)
  rw [fieldsEnd, ← byteAt_drop, hdrop]
  exact byteAt_append_right _ _ 0

/-- What is declared behind the complete fields is walked behind them, and decides the frame with the layout test. -/
theorem decodeCommandFrame_wireFrame {n : Nat} (hcount : count.toNat = fs.length + n) :
    decodeCommandFrame Config.checkTrailer (wireFrame count fs tail) =
      (walk (wireFrame count fs tail) (fieldsEnd fs + tail.length) n (fieldsEnd fs)).bind
        fun r => layoutGains count.toNat (fs.map wireValue ++ r.1) r.2 (fieldsEnd fs + tail.length) := by
  obtain ⟨post, hdrop⟩ := drop_wireFrame (count := count) (fs := fs) (tail := tail)
  have hwalk := walk_wireFields (n := n) hdrop (Nat.le_add_right (fieldsEnd fs) tail.length)
  have hbyte : byteAt (wireFrame count fs tail) 2 = count := rfl
  have hsum : Checksummed (wireFrame count fs tail) := checksummed_sealFrame _
  rw [decodeCommandFrame_of_framed framed_wireFrame, if_pos hsum, hbyte, length_wireFrame, Nat.add_sub_cancel, hcount, hwalk,
    ← fieldsEnd]
  cases walk (wireFrame count fs tail) (fieldsEnd fs + tail.length) n (fieldsEnd fs) <;> rfl

/-- Fields that fill the frame are a gain set where they are ten Float32 fields (rule R125). -/
theorem layoutGains_wireValue_eq_ok_iff {lim : Nat} {g : GainSet} :
    layoutGains fs.length (fs.map wireValue) lim lim = .ok g ↔
      (∀ f ∈ fs, f.1 = .float32) ∧ fs.map Prod.snd = g.toList := by
  rw [layoutGains_eq_ok_iff, floatPayloads_wireValue]
  constructor
  · rintro ⟨-, -, vs, hvs, hg⟩
    split_ifs at hvs with hfloat
    cases hvs
    exact ⟨hfloat, gainSetOf_eq_some_iff.mp hg⟩
  · rintro ⟨hfloat, hg⟩
    refine ⟨?_, rfl, _, if_pos hfloat, gainSetOf_eq_some_iff.mpr hg⟩
    rw [← fs.length_map (f := Prod.snd), hg, Vector.length_toList]
    rfl

end

/-! The status of a frame. -/

/-- The status RX_FRAME reports for what a decode gives (rules R86 and R128). -/
def decodeStatus : Except DecodeError GainSet → Status
  | .ok _ => .ok
  | .error e => .err e

/-- RX_FRAME completes with the status of the frame's decode. -/
theorem exec_rxFrame_status {s : State} {b : List Byte} (hwf : s.rx.wf 55 = true) (hlen : b.length ≤ 55) :
    ∃ t, exec (.rxFrame b) s = .next t ∧ t.out = .status (decodeStatus (decodeCommandFrame Config.checkTrailer b)) := by
  rcases exec_rxFrame_cases hwf hlen with ⟨hacc, hexec⟩ | ⟨-, e, he, hexec⟩
  · exact ⟨_, hexec, by rw [decodeCommandFrame_eq_ok_iff.mpr ⟨hacc, rfl⟩]; rfl⟩
  · exact ⟨_, hexec, by rw [he]; rfl⟩

/-- A layout test that does not pass reports MalformedPayload. -/
theorem decodeStatus_layoutGains {count last lim : Nat} {fs : List Field} {p : Prop} [Decidable p]
    (h : (∃ g, layoutGains count fs last lim = .ok g) ↔ p) :
    decodeStatus (layoutGains count fs last lim) = if p then .ok else .err .malformedPayload := by
  rcases layoutGains_cases count fs last lim with he | ⟨g, hg, -⟩
  · rw [he] at h ⊢
    rw [if_neg fun hp => by obtain ⟨g, hg⟩ := h.mpr hp; cases hg]
    rfl
  · rw [hg, if_pos (h.mp ⟨g, hg⟩)]
    rfl

section
variable {count : Byte} {fs : List (FieldType × BitVec 32)} {tail : List Byte}

/-- The verdict on a frame that declares the fields it carries: the layout test's. -/
theorem decodeCommandFrame_complete (hcount : count.toNat = fs.length) :
    decodeCommandFrame Config.checkTrailer (wireFrame count fs tail) =
      layoutGains fs.length (fs.map wireValue) (fieldsEnd fs) (fieldsEnd fs + tail.length) := by
  rw [decodeCommandFrame_wireFrame (n := 0) hcount, walk, ← hcount]
  exact congrArg (layoutGains _ · _ _) (List.append_nil _)

/-- The verdict on a frame whose walk ends in an error. -/
theorem decodeCommandFrame_walk_error {n : Nat} {e : DecodeError} (hcount : count.toNat = fs.length + n)
    (hwalk : walk (wireFrame count fs tail) (fieldsEnd fs + tail.length) n (fieldsEnd fs) = .error e) :
    decodeCommandFrame Config.checkTrailer (wireFrame count fs tail) = .error e := by
  rw [decodeCommandFrame_wireFrame hcount, hwalk]
  rfl

end

/-- Settles O17: the walk takes the complete fields; what stands behind them decides, in a declared field the walk's next
turn, else the layout test. -/
theorem walkVerdicts : Obligations.WalkVerdicts := by
  intro s count fs tail hwf hlen
  obtain ⟨t, hexec, hout⟩ := exec_rxFrame_status hwf hlen
  refine ⟨t, _, hexec, hout, fun hcount htail => ?filled, fun hcount htail => ?leftOver, fun hcount htail => ?noTag,
    fun tag v ty hcount htail htag hv => ?cutValue, fun tag v hcount htail htag => ?unknown⟩
  case filled =>
    subst htail
    rw [decodeCommandFrame_complete hcount]
    refine decodeStatus_layoutGains ⟨?_, ?_⟩
    · rintro ⟨g, hg⟩
      obtain ⟨hfloat, hvalues⟩ := layoutGains_wireValue_eq_ok_iff.mp hg
      refine ⟨?_, hfloat⟩
      rw [← fs.length_map (f := Prod.snd), hvalues, Vector.length_toList]
    · rintro ⟨hten, hfloat⟩
      exact ⟨⟨⟨fs.map Prod.snd⟩, by simpa using hten⟩, layoutGains_wireValue_eq_ok_iff.mpr ⟨hfloat, rfl⟩⟩
  case leftOver =>
    have hpos := List.length_pos_iff.mpr htail
    have hlayout : ¬ ∃ g, layoutGains fs.length (fs.map wireValue) (fieldsEnd fs) (fieldsEnd fs + tail.length) = .ok g := by
      rintro ⟨g, hg⟩
      obtain ⟨-, hend, -⟩ := layoutGains_eq_ok_iff.mp hg
      omega
    rw [decodeCommandFrame_complete hcount, decodeStatus_layoutGains (iff_of_false hlayout not_false), if_neg not_false]
  case noTag =>
    obtain ⟨n, hn⟩ := Nat.exists_eq_add_of_lt hcount
    subst htail
    rw [decodeCommandFrame_walk_error hn (walk_no_room le_rfl)]
    rfl
  case cutValue =>
    obtain ⟨n, hn⟩ := Nat.exists_eq_add_of_lt hcount
    subst htail
    have hwalk := walk_cut_value (b := wireFrame count fs (tag :: v)) (lim := fieldsEnd fs + (tag :: v).length) (n := n)
      (off := fieldsEnd fs) (by rw [List.length_cons]; omega) ((congrArg fieldTypeOf byteAt_fieldsEnd).trans htag)
      (by rw [List.length_cons]; omega)
    rw [decodeCommandFrame_walk_error hn hwalk]
    rfl
  case unknown =>
    obtain ⟨n, hn⟩ := Nat.exists_eq_add_of_lt hcount
    subst htail
    have hwalk := walk_unknown_tag (b := wireFrame count fs (tag :: v)) (lim := fieldsEnd fs + (tag :: v).length) (n := n)
      (off := fieldsEnd fs) (by rw [List.length_cons]; omega) (by rw [byteAt_fieldsEnd]; exact htag)
    rw [decodeCommandFrame_walk_error hn hwalk]
    rfl

end Sys2Proof.Machine
end

section
/-! Command and telemetry frames: the decoders accept exactly the encodings (30_encoding.md sections 1 to 3). -/

namespace Sys2Proof.Machine

/-! Command frames (rules R70, R84 and R131). -/

/-- Float32 fields that stand one behind the other are the encoding of their values. -/
theorem drop_eq_flatMap_floatField {b : List Byte} {n off : Nat} (hlen : off + 5 * n ≤ b.length)
    (htags : ∀ i < n, byteAt b (off + 5 * i) = 0x04) :
    b.drop off = (floatValues b n off).flatMap encodeFloatField ++ b.drop (off + 5 * n) := by
  induction n generalizing off with
  | zero => rfl
  | succ n ih =>
    obtain ⟨htag, hrest⟩ := forall_lt_succ_tag_iff.mp htags
    have hnext := ih (off := off + 5) (by omega) hrest
    have hvalue : encodeFloatField (memRead4 b (off + 1)) =
        [byteAt b off, byteAt b (off + 1), byteAt b (off + 2), byteAt b (off + 3), byteAt b (off + 4)] := by
      rw [encodeFloatField, memRead4, le32_join32, htag]
    rw [floatValues, List.flatMap_cons, List.append_assoc, Nat.mul_succ, Nat.add_comm (5 * n), ← Nat.add_assoc, ← hnext,
      hvalue, drop_eq_byteAt_cons (by omega), drop_eq_byteAt_cons (n := off + 1) (by omega),
      drop_eq_byteAt_cons (n := off + 2) (by omega), drop_eq_byteAt_cons (n := off + 3) (by omega),
      drop_eq_byteAt_cons (n := off + 4) (by omega)]
    rfl

theorem length_commandBody (g : GainSet) : (commandBody g).length = 53 := by
  simp [commandBody]

/-- An accepted frame is the encoding of its gain set. -/
theorem eq_sealFrame_of_accepted {b : List Byte} (h : Accepted b) : b = sealFrame (commandBody (frameGains b)) := by
  obtain ⟨hlen, h0, h1, hcount, htags, hsum, htrail⟩ := h
  have hfields := drop_eq_flatMap_floatField (b := b) (n := 10) (off := 3) (by omega) fun i hi => htags ⟨i, hi⟩
  have hb : b = commandBody (frameGains b) ++ [byteAt b 53, byteAt b 54] := by
    conv_lhs => rw [← List.drop_zero (l := b), drop_eq_byteAt_cons (by omega), drop_eq_byteAt_cons (by omega),
      drop_eq_byteAt_cons (by omega), h0, h1, hcount, hfields, drop_eq_byteAt_cons (by omega),
      drop_eq_byteAt_cons (by omega), List.drop_eq_nil_of_le (by omega)]
    rfl
  refine eq_sealFrame hb ?_ ?_ <;> rw [length_commandBody]
  · exact hsum
  · exact htrail rfl

/-- The fields of an encoded command frame, as fields on the wire. -/
theorem sealFrame_commandBody (g : GainSet) :
    sealFrame (commandBody g) = wireFrame 0x0A (g.toList.map fun v => (.float32, v)) [] := by
  have hfields : (g.toList.map fun v => (FieldType.float32, v)).flatMap wireField = g.toList.flatMap encodeFloatField :=
    List.flatMap_map ..
  rw [wireFrame, hfields, List.append_nil, commandBody]

/-- The decoder gives back the gain set of an encoded command frame. -/
theorem decodeCommandFrame_sealFrame (g : GainSet) :
    decodeCommandFrame Config.checkTrailer (sealFrame (commandBody g)) = .ok g := by
  rw [sealFrame_commandBody, decodeCommandFrame_complete (by simp)]
  refine layoutGains_wireValue_eq_ok_iff.mpr ⟨by simp, ?_⟩
  rw [List.map_map]
  exact List.map_id _

theorem decodeCommand_eq_ok_iff {bs rest : List Byte} {i : Instr} :
    decodeCommand bs = .ok (i, rest) ↔ ∃ g, i = .cmdFrame g ∧ bs = sealFrame (commandBody g) ∧ rest = [] := by
  constructor
  · intro h
    unfold decodeCommand at h
    split at h
    · rename_i g hg
      cases h
      obtain ⟨hacc, rfl⟩ := decodeCommandFrame_eq_ok_iff.mp hg
      exact ⟨_, rfl, eq_sealFrame_of_accepted hacc, rfl⟩
    · cases h
  · rintro ⟨g, rfl, rfl, rfl⟩
    have hg : decodeCommandFrame true (sealFrame (commandBody g)) = .ok g := decodeCommandFrame_sealFrame g
    rw [decodeCommand, hg]

/-- Settles O19: the row decodes its own encoding. -/
theorem acceptedFormDecodesToItsGains : Obligations.AcceptedFormDecodesToItsGains := by
  intro s g
  have hexec : exec (.cmdFrame g) s =
      .next (reportGains (decodeCommandFrame Config.checkTrailer (sealFrame (commandBody g))) s) := rfl
  rw [hexec, decodeCommandFrame_sealFrame]
  rfl

/-! Telemetry frames (rule R80, log entry 25). -/

/-- The slots that stand one behind the other from an offset on (rule R142). -/
def slotValues (b : List Byte) : Nat → Nat → List Slot
  | 0, _ => []
  | n + 1, off => memRead2 b off :: slotValues b n (off + 2)

theorem drop_eq_flatMap_le16 {b : List Byte} {n off : Nat} (hlen : off + 2 * n ≤ b.length) :
    b.drop off = (slotValues b n off).flatMap le16 ++ b.drop (off + 2 * n) := by
  induction n generalizing off with
  | zero => rfl
  | succ n ih =>
    have hnext := ih (off := off + 2) (by omega)
    rw [slotValues, List.flatMap_cons, List.append_assoc, Nat.mul_succ, Nat.add_comm (2 * n), ← Nat.add_assoc, ← hnext,
      memRead2, le16_join16, drop_eq_byteAt_cons (by omega), drop_eq_byteAt_cons (n := off + 1) (by omega)]
    rfl

theorem length_telemetryBody (running : Bool) (slots : Vector Slot 13) : (telemetryBody running slots).length = 30 := by
  simp [telemetryBody]

theorem telemetrySlots_getElem (b : List Byte) (i : Fin 13) : (telemetrySlots b)[i] = memRead2 b (4 + 2 * i) := by
  match i with
  | 0 | 1 | 2 | 3 | 4 | 5 | 6 | 7 | 8 | 9 | 10 | 11 | 12 => rfl

/-- The slots of an encoded frame are read back. -/
theorem telemetrySlots_sealFrame (running : Bool) (slots : Vector Slot 13) :
    telemetrySlots (sealFrame (telemetryBody running slots)) = slots := by
  have hbyte (i j : Nat) (hi : i < 13) (hj : j < 2) :
      byteAt (sealFrame (telemetryBody running slots)) (4 + (2 * i + j)) = byteAt (le16 slots[i]) j := by
    rw [byteAt_sealFrame_body (by rw [length_telemetryBody]; omega)]
    exact (byteAt_append_right [0xAA, 0x55, 0x20, if running then 0x01 else 0x00] _ _).trans
      (byteAt_flatMap length_le16 (by simpa using hi) hj)
  refine Vector.ext fun i hi => ?_
  have h0 := hbyte i 0 hi (by decide)
  have h1 := hbyte i 1 hi (by decide)
  rw [Nat.add_zero] at h0
  rw [show (telemetrySlots _)[i] = memRead2 _ (4 + 2 * i) from telemetrySlots_getElem _ ⟨i, hi⟩, memRead2, Nat.add_assoc, h0,
    h1]
  exact join16_split slots[i]

theorem decodeTelemetry_eq_ok_iff {bs rest : List Byte} {i : Instr} :
    decodeTelemetry bs = .ok (i, rest) ↔
      ∃ running slots, i = .tlmFrame running slots ∧ bs = sealFrame (telemetryBody running slots) ∧ rest = [] := by
  constructor
  · intro h
    unfold decodeTelemetry at h
    split_ifs at h with hform
    cases h
    obtain ⟨hlen, h0, h1, h2, h3, hsum, htrail⟩ := hform
    rw [Config.tlmLen] at hlen
    have hslots := drop_eq_flatMap_le16 (b := bs) (n := 13) (off := 4) (by omega)
    have hflag : byteAt bs 3 = if byteAt bs 3 == 1 then 0x01 else 0x00 := by
      rcases h3 with h3 | h3 <;> rw [h3] <;> rfl
    have hb : bs = telemetryBody (byteAt bs 3 == 1) (telemetrySlots bs) ++ [byteAt bs 30, byteAt bs 31] := by
      conv_lhs => rw [← List.drop_zero (l := bs), drop_eq_byteAt_cons (by omega), drop_eq_byteAt_cons (by omega),
        drop_eq_byteAt_cons (by omega), drop_eq_byteAt_cons (by omega), h0, h1, h2, hflag, hslots,
        drop_eq_byteAt_cons (by omega), drop_eq_byteAt_cons (by omega), List.drop_eq_nil_of_le (by omega)]
      rfl
    refine ⟨_, _, rfl, eq_sealFrame hb ?_ ?_, rfl⟩ <;> rw [length_telemetryBody]
    · exact hsum.symm
    · exact htrail
  · rintro ⟨running, slots, rfl, rfl, rfl⟩
    have hlen := length_telemetryBody running slots
    have hlast := byteAt_sealFrame_trailer (telemetryBody running slots)
    have hsum := checksummed_sealFrame (telemetryBody running slots)
    have hflag : byteAt (sealFrame (telemetryBody running slots)) 3 = if running then 0x01 else 0x00 := rfl
    rw [Checksummed, length_sealFrame, hlen] at hsum
    rw [hlen] at hlast
    rw [decodeTelemetry, if_pos ⟨by rw [length_sealFrame, hlen]; rfl, rfl, rfl, rfl, by rw [hflag]; cases running <;> simp,
      hsum, hlast⟩, telemetrySlots_sealFrame, hflag]
    cases running <;> rfl

/-- Settles O5: each decoder accepts the encoding of its frame. -/
theorem framesDecodeFromTheirEncoding : Obligations.FramesDecodeFromTheirEncoding := by
  refine ⟨fun g => ⟨_, rfl, ?_, decodeCommand_eq_ok_iff.mpr ⟨g, rfl, rfl, rfl⟩⟩,
    fun running slots => ⟨_, rfl, ?_, decodeTelemetry_eq_ok_iff.mpr ⟨running, slots, rfl, rfl, rfl⟩⟩⟩
  · rw [length_sealFrame, length_commandBody]
  · rw [length_sealFrame, length_telemetryBody]

/-- Settles O6: what each of the four decoders accepts is an encoding, and only a frame's decoder asks for the end. -/
theorem decodedWordsAreEncodings : Obligations.DecodedWordsAreEncodings := by
  intro sp bs rest i h
  cases sp with
  | op =>
    obtain ⟨-, -, pre, he, hbs⟩ := decodeOp_eq_ok_iff.mp h
    exact ⟨⟨_, pre, he, hbs⟩, by simp⟩
  | field o lim => exact ⟨encode_of_decodeField h, by simp⟩
  | command =>
    obtain ⟨g, rfl, rfl, rfl⟩ := decodeCommand_eq_ok_iff.mp h
    exact ⟨⟨_, _, rfl, (List.append_nil _).symm⟩, fun _ => rfl⟩
  | telemetry =>
    obtain ⟨running, slots, rfl, rfl, rfl⟩ := decodeTelemetry_eq_ok_iff.mp h
    exact ⟨⟨_, _, rfl, (List.append_nil _).symm⟩, fun _ => rfl⟩

/-- Settles O2: the nine words, one field row, one unknown tag and two port requests, run through the decoder. -/
theorem writtenOutWordsDecode : Obligations.WrittenOutWordsDecode :=
  ⟨rfl, rfl, rfl, rfl, rfl, rfl, rfl, rfl, rfl⟩

end Sys2Proof.Machine
end

section
/-! The signed and float field rows and FLD_DECODE (40_field_codec.md rules R102, R103, R107 and R109). -/

namespace Sys2Proof.Machine

/-- The sign bit of an Int16 field is bit 7 of its second byte (rule R103). -/
theorem join16_toInt (b0 b1 : Byte) : (join16 b0 b1).toInt =
    b0.toNat + 256 * b1.toNat - if 128 ≤ b1.toNat then 65536 else 0 := by
  have h0 := b0.isLt
  rw [BitVec.toInt_eq_toNat_cond, join16_toNat]
  split <;> split <;> push_cast <;> omega

theorem fieldI16_join16 (b0 b1 : Byte) : fieldI16 (join16 b0 b1) =
    .int16 (b0.toNat + 256 * b1.toNat - if 128 ≤ b1.toNat then 65536 else 0) :=
  congrArg Field.int16 (join16_toInt b0 b1)

/-- Settles O10: the two rows report through the bound test, the third raises its error. -/
theorem signedAndFloatFieldValues : Obligations.SignedAndFloatFieldValues := by
  intro s o lim b0 b1 b2 b3 tag _ hlim _
  have hcap : lim ≤ Config.rxCap := (Nat.le_add_right lim 2).trans hlim
  refine ⟨?_, ?_, rfl⟩
  · rw [← fieldI16_join16]
    exact reportField_boundField hcap (fieldI16 (join16 b0 b1)) s
  · exact reportField_boundField hcap (fieldF32 (join32 b0 b1 b2 b3)) s

/-- FLD_DECODE under a known tag: the bound test, and behind it the value, which is read only where it passes. -/
theorem exec_fldDecode_of_tag {tag : Byte} {ty : FieldType} {o lim : Nat} {s : State} {f : Field}
    (htag : fieldTypeOf tag = some ty) (hf : o + widthOf ty ≤ lim → fieldAt ty (s.buffer .rx) o = f) :
    exec (.fldDecode o tag lim) s = reportField (boundField o (widthOf ty) lim f) s := by
  have hdec : decodeFieldAt (s.buffer .rx) o tag lim = boundField o (widthOf ty) lim f := by
    rw [decodeFieldAt, htag]
    dsimp only [boundField]
    split_ifs with hbound
    · rfl
    · rw [hf (not_lt.mp hbound)]
  exact congrArg (reportField · s) hdec

/-- The values that FLD_DECODE reads, in the bytes of the receive buffer. -/
theorem memRead_buffer_rx {s : State} {o : Nat} :
    (o + 1 ≤ 55 → memRead1 (s.buffer .rx) o = s.rx.read o) ∧
    (o + 2 ≤ 55 → memRead2 (s.buffer .rx) o = s.rx.read (o + 1) ++ s.rx.read o) ∧
    (o + 4 ≤ 55 → memRead4 (s.buffer .rx) o =
      s.rx.read (o + 3) ++ s.rx.read (o + 2) ++ s.rx.read (o + 1) ++ s.rx.read o) := by
  have hread (i : Nat) (h : i < 55) : byteAt (s.buffer .rx) i = s.rx.read i := State.byteAt_buffer_rx h
  refine ⟨fun h => hread o h, fun h => ?_, fun h => ?_⟩
  · rw [memRead2, hread o (by omega), hread (o + 1) (by omega), join16]
  · rw [memRead4, hread o (by omega), hread (o + 1) (by omega), hread (o + 2) (by omega), hread (o + 3) (by omega), join32]

/-- Settles O11: a known tag leads to the bound test of its row, an unknown one past every bound to its error. -/
theorem fieldDecodeActsAsItsRow : Obligations.FieldDecodeActsAsItsRow := by
  intro s o lim tag _ hlim
  obtain ⟨h1, h2, h4⟩ := memRead_buffer_rx (s := s) (o := o)
  refine ⟨exec_fldDecode_of_tag (ty := .int16) rfl fun h => congrArg fieldI16 (h2 ?_),
    exec_fldDecode_of_tag (ty := .uint16) rfl fun h => congrArg fieldU16 (h2 ?_),
    exec_fldDecode_of_tag (ty := .int32) rfl fun h => congrArg fieldI32 (h4 ?_),
    exec_fldDecode_of_tag (ty := .uint32) rfl fun h => congrArg fieldU32 (h4 ?_),
    exec_fldDecode_of_tag (ty := .float32) rfl fun h => congrArg fieldF32 (h4 ?_),
    exec_fldDecode_of_tag (ty := .uint8) rfl fun h => congrArg fieldU8 (h1 ?_), fun htag => ?_⟩
  case refine_7 =>
    have hdec : decodeFieldAt (s.buffer .rx) o tag lim = .error .unknownFieldType := by
      rw [decodeFieldAt, fieldTypeOf_eq_none.mpr htag]
    exact congrArg (reportField · s) hdec
  all_goals
    simp only [widthOf] at h
    omega

end Sys2Proof.Machine
end

section
/-! The commit of an accepted frame, and the two tests of every frame (41_frame_decoder.md sections 1 and 2). -/

namespace Sys2Proof.Machine

/-- What a gain set makes of the record of an axis (rule R126). -/
def axisGains (a : Fin 7) (g : GainSet) (r : PidState) : PidState :=
  if (a : Nat) < 3 then positionGains g r else velocityGains g r

theorem gainsIntoFile_getElem (g : GainSet) (f : Vector PidState 7) (a : Fin 7) :
    (gainsIntoFile g f)[a] = axisGains a g f[a] := by
  match a with
  | 0 | 1 | 2 | 3 | 4 | 5 | 6 => rfl

theorem exec_commit (g : GainSet) (s : State) : exec (.commit g) s = .next ((commitGains g s).withOut .none) := rfl

/-- Settles O20: each record takes the quintuple of its group. -/
theorem commitWritesAllSevenRecords : Obligations.CommitWritesAllSevenRecords := by
  intro s g
  exact ⟨_, exec_commit g s, gainsIntoFile_getElem g s.pid, rfl⟩

/-- The hand-over leaves the frame's bytes in the receive buffer and the bytes above as they were (log entry 22). -/
theorem read_handOver {s : State} {b : List Byte} (hwf : s.rx.wf 55 = true) (hlen : b.length ≤ 55) (x : Nat) :
    (s.handOver b).rx.read x = if x < b.length then byteAt b x else s.rx.read x := by
  rw [State.handOver_rx, Memory.read_writeBytes hwf (by omega)]
  simp

/-- Settles O13: the committing end of RX_FRAME, with the gain set read off the frame. -/
theorem acceptedFrameCommits : Obligations.AcceptedFrameCommits := by
  intro s b hwf hacc
  have hlen : b.length ≤ 55 := hacc.1.le
  rcases exec_rxFrame_cases hwf hlen with ⟨-, hexec⟩ | ⟨hrej, -⟩
  · exact ⟨_, hexec, gainsIntoFile_getElem (frameGains b) s.pid, read_handOver hwf hlen, rfl⟩
  · exact absurd hacc hrej

/-- Both ends of RX_FRAME leave the frame's bytes where the hand-over put them. -/
theorem exec_rxFrame_rx {s t : State} {b : List Byte} (hwf : s.rx.wf 55 = true) (hlen : b.length ≤ 55)
    (h : exec (.rxFrame b) s = .next t) : t.rx = (s.handOver b).rx := by
  rcases exec_rxFrame_cases hwf hlen with ⟨-, hexec⟩ | ⟨-, e, -, hexec⟩ <;> rw [hexec] at h <;> cases h <;> rfl

theorem decodeCommandFrame_of_not_checksummed {b : List Byte} (hf : Framed b) (hc : ¬ Checksummed b) :
    decodeCommandFrame Config.checkTrailer b = .error .checksumMismatch := by
  rw [decodeCommandFrame_of_framed hf, if_neg hc]

/-- Settles O15: the first two stages of the decode, each with its error, whatever stands behind them. -/
theorem framingThenChecksum : Obligations.FramingThenChecksum := by
  intro s b hwf hlen
  obtain ⟨t, hexec, hout⟩ := exec_rxFrame_status hwf hlen
  refine ⟨t, hexec, fun x => ?_, fun hf => ?_, fun hf hc => ?_⟩
  · rw [exec_rxFrame_rx hwf hlen hexec, read_handOver hwf hlen]
  · rw [hout, decodeCommandFrame_of_not_framed hf]
    rfl
  · rw [hout, decodeCommandFrame_of_not_checksummed hf hc]
    rfl

/-! A change of one byte (rule R122). -/

theorem byteAt_set_other {b : List Byte} {i j : Nat} (h : i ≠ j) (x : Byte) : byteAt (b.set i x) j = byteAt b j := by
  simp [byteAt, List.getElem?_set_ne h]

/-- A change of one byte changes the exclusive-or of all by the same bits. -/
theorem xorBytes_set {b : List Byte} {i : Nat} (h : i < b.length) (m : Byte) :
    xorBytes (b.set i (byteAt b i ^^^ m)) = xorBytes b ^^^ m := by
  induction b generalizing i with
  | nil => cases h
  | cons x b ih =>
    cases i with
    | zero =>
      rw [List.set_cons_zero, xorBytes_cons, xorBytes_cons]
      change x ^^^ m ^^^ xorBytes b = x ^^^ xorBytes b ^^^ m
      rw [BitVec.xor_assoc, BitVec.xor_comm m, BitVec.xor_assoc]
    | succ i =>
      have hrec := ih (Nat.lt_of_succ_lt_succ h)
      rw [List.set_cons_succ, xorBytes_cons, xorBytes_cons, BitVec.xor_assoc, ← hrec]
      rfl

/-- The checksum test asks that the bytes up to the checksum, the checksum among them, cancel. -/
theorem checksummed_iff {b : List Byte} (h : 2 ≤ b.length) : Checksummed b ↔ xorBytes (b.take (b.length - 1)) = 0 := by
  have hlast : b.length - 1 = b.length - 2 + 1 := by omega
  have hxor := xor8_succ (b := b) (Nat.zero_le (b.length - 2)) (by omega)
  rw [xor8, List.drop_zero, Nat.sub_zero] at hxor
  rw [Checksummed, hlast, hxor]
  exact BitVec.xor_eq_zero_iff.symm

theorem framed_and_checksummed_of_accepted {b : List Byte} (h : Accepted b) : Framed b ∧ Checksummed b := by
  obtain ⟨hf, hc, -⟩ := decodeCommandFrame_eq_ok_iff_stages.mp (decodeCommandFrame_eq_ok_iff.mpr ⟨h, rfl⟩)
  exact ⟨hf, hc⟩

/-- Settles O16: the change leaves the framing alone, and the bytes that cancelled leave the changed bits. -/
theorem alteredByteIsChecksumMismatch : Obligations.AlteredByteIsChecksumMismatch := by
  intro s b i m hwf hacc hlo hhi hm
  obtain ⟨⟨hlen, h0, h1, htrail⟩, hsum⟩ := framed_and_checksummed_of_accepted hacc
  have hb : b.length = 55 := hacc.1
  have hlength : (b.set i (byteAt b i ^^^ m)).length = 55 := by rw [List.length_set, hb]
  have hframed : Framed (b.set i (byteAt b i ^^^ m)) := by
    rw [Framed, hlength, byteAt_set_other (by omega), byteAt_set_other (by omega), byteAt_set_other (by omega), ← hb]
    exact ⟨hlen, h0, h1, htrail⟩
  have hbroken : ¬ Checksummed (b.set i (byteAt b i ^^^ m)) := by
    rw [checksummed_iff (by omega), hb] at hsum
    have hi : i < (b.take 54).length := by
      rw [List.length_take]
      omega
    have hchange := xorBytes_set hi m
    rw [byteAt_take (by omega)] at hchange
    rw [checksummed_iff (by omega), hlength, List.take_set, hchange, hsum]
    exact fun h => hm (BitVec.zero_xor.symm.trans h)
  obtain ⟨t, hexec, hout⟩ := exec_rxFrame_status (b := b.set i (byteAt b i ^^^ m)) hwf hlength.le
  rw [decodeCommandFrame_of_not_checksummed hframed hbroken] at hout
  have hrej : ¬ Accepted (b.set i (byteAt b i ^^^ m)) := fun h => hbroken (framed_and_checksummed_of_accepted h).2
  obtain ⟨-, u, hexec', -, hsame, -⟩ := rejectedFrameChangesNoRegister s _ hwf hlength.le hrej
  cases hexec.symm.trans hexec'
  exact ⟨t, hexec, hout, hsame⟩

/-- Settles O18: the decode of a slice of the receive buffer, a gain set exactly for an accepted frame. -/
theorem commandDecodeIsTotal : Obligations.CommandDecodeIsTotal := by
  intro s len hlen
  have hexec : exec (.cmdDecode len) s =
      .next (reportGains (decodeCommandFrame Config.checkTrailer (s.rx.slice 0 len)) s) :=
    if_neg (not_lt.mpr hlen)
  cases hdec : decodeCommandFrame Config.checkTrailer (s.rx.slice 0 len) with
  | ok g =>
    rw [hdec] at hexec
    obtain ⟨hacc, rfl⟩ := decodeCommandFrame_eq_ok_iff.mp hdec
    exact ⟨_, hexec, fun _ => rfl, fun hrej => absurd hacc hrej⟩
  | error e =>
    rw [hdec] at hexec
    refine ⟨_, hexec, fun hacc => ?_, fun _ => ⟨e, rfl⟩⟩
    rw [decodeCommandFrame_eq_ok_iff.mpr ⟨hacc, rfl⟩] at hdec
    cases hdec

end Sys2Proof.Machine
end

section
/-! The telemetry frame as a whole: what stands in the transmit buffer is the encoding of the flag and the slots
(30_encoding.md section 3, 42_frame_encoder.md sections 1 and 2). -/

namespace Sys2Proof.Machine

theorem Memory.slice_add (m : Memory) (off n k : Nat) : m.slice off (n + k) = m.slice off n ++ m.slice (off + n) k := by
  rw [Memory.slice_eq_map_range', Memory.slice_eq_map_range', Memory.slice_eq_map_range', ← List.map_append,
    ← List.range'_append_1]

section
variable {m : Memory} {running : Bool} {slots : Vector Slot 13}

theorem slice_writeTelemetry_slots (hm : m.wf 32 = true) :
    (writeTelemetry m running slots).slice 4 26 = slots.toList.flatMap le16 := by
  have hbody : (writeTelemetry m running slots).slice 4 26 = (writeTelemetryBody m running slots).slice 4 26 :=
    Memory.slice_congr fun i hi => read_writeTelemetry_body hm (by omega)
  have hslots := slice_writeSlots (writeTelemetryHeader_wf (running := running) hm) (off := 4) (vs := slots.toList) (by simp)
  rw [Vector.length_toList] at hslots
  rw [hbody, writeTelemetryBody_eq, ← hslots]

theorem slice_writeTelemetry_header (hm : m.wf 32 = true) :
    (writeTelemetry m running slots).slice 0 4 = [0xAA, 0x55, 0x20, runningByte running] := by
  have hread (y : Nat) (hy : y < 4) := (read_writeTelemetry_header (running := running) (slots := slots) hm hy).trans
    (read_writeTelemetryHeader hm)
  simp [Memory.slice, hread]

/-- The buffer holds the sealed frame of the row TLMFRAME (rule R80). -/
theorem slice_writeTelemetry (hm : m.wf 32 = true) :
    (writeTelemetry m running slots).slice 0 32 = sealFrame (telemetryBody running slots) := by
  have hparts : (writeTelemetry m running slots).slice 0 32 = telemetryBody running slots ++
      [(writeTelemetry m running slots).read 30, (writeTelemetry m running slots).read 31] := by
    rw [show 32 = 4 + 26 + 2 from rfl, Memory.slice_add, Memory.slice_add, slice_writeTelemetry_header hm,
      slice_writeTelemetry_slots hm]
    rfl
  refine eq_sealFrame hparts ?_ ?_ <;> rw [length_telemetryBody, Memory.byteAt_slice (by decide)]
  · rw [xor8_slice_zero (by decide)]
    exact read_writeTelemetry_checksum hm
  · rw [read_writeTelemetry hm]
    rfl

end

/-- The row's operation: the frame of its own flag and slots, written by the writes of TLM_ENCODE (log entry 6). -/
theorem exec_tlmFrame {s : State} (running : Bool) (slots : Vector Slot 13) : exec (.tlmFrame running slots) s =
    .next { s with
      tx := writeTelemetry s.tx running slots
      out := .frame ((writeTelemetry s.tx running slots).slice 0 32) } := rfl

/-- Settles O23: what the row leaves in the buffer is its encoding, which the decoder reads back. -/
theorem telemetryRowAssemblesItsFrame : Obligations.TelemetryRowAssemblesItsFrame := by
  intro s running slots hm
  have hexec := exec_tlmFrame (s := s) running slots
  have hframe := slice_writeTelemetry (running := running) (slots := slots) hm
  have habove := fun x => read_writeTelemetry_above (running := running) (slots := slots) (y := x) hm
  generalize writeTelemetry s.tx running slots = m at hexec hframe habove
  refine ⟨_, _, hexec, rfl, ?_, ?_, habove, rfl⟩
  · rw [List.range_eq_range', ← Memory.slice_eq_map_range']
  · rw [hframe]
    exact decodeTelemetry_eq_ok_iff.mpr ⟨running, slots, rfl, rfl, rfl⟩

/-! Slots as 16-bit integers (rules R82 and R143). -/

/-- The low half of a register, read as a signed number. -/
theorem toInt_append_extractLsb' (v : I32) :
    (v.extractLsb' 8 8 ++ v.extractLsb' 0 8 : BitVec 16).toInt = (v.toInt + 32768) % 65536 - 32768 := by
  have hjoin : (v.extractLsb' 8 8 ++ v.extractLsb' 0 8 : BitVec 16) = trunc16 v := by
    rw [← extractLsb'_low_trunc16, ← extractLsb'_high_trunc16]
    exact join16_split (trunc16 v)
  have hlow : (trunc16 v).toNat = v.toNat % 65536 := by
    rw [trunc16, BitVec.extractLsb'_toNat, Nat.shiftRight_zero]
  have hv := v.isLt
  rw [hjoin, BitVec.toInt_eq_toNat_cond, BitVec.toInt_eq_toNat_cond, hlow]
  split <;> split <;> omega

/-- Settles O25: each slot is its register's low half. -/
theorem telemetrySlotsWrap : Obligations.TelemetrySlotsWrap := by
  intro s poseIn oriIn hm
  obtain ⟨t, hexec, ⟨-, -, -, -, hcmd, hvel, hpose, hori, -, -⟩, -⟩ := telemetryTickSendsTheRegisters s poseIn oriIn hm
  refine ⟨t, hexec, fun j => ?_, fun k => ?_, fun k => ?_, fun k => ?_⟩
  · rw [(hcmd j).1, (hcmd j).2, toInt_append_extractLsb']
  · rw [(hvel k).1, (hvel k).2, toInt_append_extractLsb']
  · rw [(hpose k).1, (hpose k).2, toInt_append_extractLsb']
  · rw [(hori k).1, (hori k).2, toInt_append_extractLsb']

/-! The bytes sent (rules R146 and R147). -/

/-- TLM_TICK sends the frame of the registers with the snapshot in them: the buffer's former contents play no part. -/
theorem exec_tlmTick_sent {s : State} (hm : s.tx.wf 32 = true) (poseIn oriIn : Vector I32 3) :
    ∃ m : Memory, m.wf 32 = true ∧ exec (.tlmTick poseIn oriIn) s = .next { s.withSensors poseIn oriIn with
      tx := m
      out := .sent (sealFrame (telemetryBody s.running (registerSlots (s.withSensors poseIn oriIn)))) } := by
  have hexec := exec_tlmTick poseIn oriIn s
  have hwf : (writeTelemetry s.tx s.running (registerSlots (s.withSensors poseIn oriIn))).wf 32 = true :=
    writeTelemetry_wf hm
  have hframe := slice_writeTelemetry (running := s.running) (slots := registerSlots (s.withSensors poseIn oriIn)) hm
  rw [encodeTelemetry_tx, State.withSensors_tx, State.withSensors_running] at hexec
  generalize writeTelemetry s.tx s.running (registerSlots (s.withSensors poseIn oriIn)) = m at hexec hwf hframe
  rw [List.range_eq_range', ← Memory.slice_eq_map_range', hframe] at hexec
  exact ⟨m, hwf, hexec⟩

/-- Settles O26: the second tick finds the registers with the snapshot in them, as the first one left them. -/
theorem telemetryHasNoMemory : Obligations.TelemetryHasNoMemory := by
  intro s poseIn oriIn hm
  obtain ⟨m, hwf, hexec⟩ := exec_tlmTick_sent hm poseIn oriIn
  refine ⟨_, hexec, ?_⟩
  obtain ⟨m', -, hexec'⟩ := exec_tlmTick_sent (s := { s.withSensors poseIn oriIn with
    tx := m
    out := .sent (sealFrame (telemetryBody s.running (registerSlots (s.withSensors poseIn oriIn)))) }) hwf poseIn oriIn
  exact ⟨_, hexec', rfl, rfl, rfl, rfl, rfl, rfl, rfl, rfl, rfl⟩

end Sys2Proof.Machine
end

section
/-! Binary32 arithmetic: one rounding of the exact result, and the invalid operations (43_pid.md rules R156 to R159). -/

namespace Sys2Proof.Machine

section
variable {a b : F32}

/-! Finite operands. -/

theorem fadd_of_finite (n : Nat) (ha : isFinite a = true) (hb : isFinite b = true) :
    fadd n a b = if fvalue a + fvalue b = 0 then fpack (fsign a && fsign b) 0
      else fpack (decide (fvalue a + fvalue b < 0)) (roundUnits (fvalue a + fvalue b).natAbs 0) := by
  simp [fadd, isFinite_not_isNaN ha, isFinite_not_isNaN hb, isFinite_not_isInf ha, isFinite_not_isInf hb]

theorem fmul_of_finite (n : Nat) (ha : isFinite a = true) (hb : isFinite b = true) :
    fmul n a b = fpack (fsign a != fsign b) (roundUnits (funits a * funits b) 149) := by
  simp [fmul, isFinite_not_isNaN ha, isFinite_not_isNaN hb, isFinite_not_isInf ha, isFinite_not_isInf hb]

/-- Rule R156; a sum that is exactly 0 is a zero of either sign. -/
theorem rounded_fadd (n : Nat) (ha : isFinite a = true) (hb : isFinite b = true) :
    Rounded (fvalue a + fvalue b) 0 (fadd n a b) := by
  rw [fadd_of_finite n ha hb]
  split_ifs with hz
  · have hzero := rounded_roundUnits (fsign a && fsign b) 0 0
    rwa [roundUnits_zero, abs_eq_zero.mp (abs_withSign _ 0), ← hz] at hzero
  · have hround := rounded_roundUnits (decide (fvalue a + fvalue b < 0)) (fvalue a + fvalue b).natAbs 0
    rwa [withSign_natAbs] at hround

theorem rounded_fsub (n : Nat) (ha : isFinite a = true) (hb : isFinite b = true) :
    Rounded (fvalue a - fvalue b) 0 (fsub n a b) := by
  have hround := rounded_fadd n ha ((isFinite_fneg b).trans hb)
  rwa [fvalue_fneg, ← sub_eq_add_neg] at hround

/-- Rule R156: a finite value cancels against itself to the zero of sign 0. -/
theorem fsub_self (n : Nat) (ha : isFinite a = true) : fsub n a a = 0x00000000 := by
  rw [fsub, fadd_of_finite n ha ((isFinite_fneg a).trans ha), fvalue_fneg, add_neg_cancel, if_pos rfl, fsign_fneg]
  cases fsign a <;> rfl

/-- The signed product of two values is the product of the magnitudes under the exclusive or of the signs. -/
theorem fvalue_mul (a b : F32) : fvalue a * fvalue b = withSign (fsign a != fsign b) (funits a * funits b) := by
  rw [fvalue_eq_withSign, fvalue_eq_withSign]
  cases fsign a <;> cases fsign b <;> simp [withSign]

theorem rounded_fmul (n : Nat) (ha : isFinite a = true) (hb : isFinite b = true) :
    Rounded (fvalue a * fvalue b) 149 (fmul n a b) := by
  rw [fvalue_mul, fmul_of_finite n ha hb]
  exact rounded_roundUnits _ _ _

/-- Settles O33: a difference is the sum with the negated operand, which is as finite. -/
theorem additionRoundsOnce : Obligations.AdditionRoundsOnce := by
  intro n a b ha hb
  exact ⟨rounded_fadd n ha hb, rounded_fsub n ha hb, rfl, fsub_self n ha⟩

/-- Settles O34: the product is packed under its own sign. -/
theorem multiplicationRoundsOnce : Obligations.MultiplicationRoundsOnce := by
  intro n a b ha hb
  refine ⟨rounded_fmul n ha hb, ?_⟩
  rw [fmul_of_finite n ha hb, fsign_fpack (roundUnits_lt _ _)]

/-! Invalid operations (rule R159). -/

theorem fadd_of_isNaN (n : Nat) (h : isNaN a = true ∨ isNaN b = true) : fadd n a b = freeNaN n := by
  rw [fadd, if_pos (Bool.or_eq_true_iff.mpr h)]

theorem fmul_of_isNaN (n : Nat) (h : isNaN a = true ∨ isNaN b = true) : fmul n a b = freeNaN n := by
  rw [fmul, if_pos (Bool.or_eq_true_iff.mpr h)]

theorem fadd_of_opposite_infinities (n : Nat) (ha : isInf a = true) (hb : isInf b = true) (hs : fsign a ≠ fsign b) :
    fadd n a b = freeNaN n := by
  simp [fadd, isInf_not_isNaN ha, isInf_not_isNaN hb, ha, hb, hs]

theorem funits_eq_zero_iff (a : F32) : funits a = 0 ↔ fvalue a = 0 := by
  rw [fvalue_eq_withSign]
  cases fsign a <;> simp [withSign]

theorem fmul_inf_zero (n : Nat) (ha : isInf a = true) (hb : isFinite b = true) (hz : fvalue b = 0) :
    fmul n a b = freeNaN n ∧ fmul n b a = freeNaN n := by
  have hunits := (funits_eq_zero_iff b).mpr hz
  constructor <;> simp [fmul, isInf_not_isNaN ha, isFinite_not_isNaN hb, isFinite_not_isInf hb, ha, hb, hunits]

/-- Settles O35: each invalid operation gives the free NaN of its draw, which is quiet whatever the draw is. -/
theorem invalidOperationsGiveQuietNaNs : Obligations.InvalidOperationsGiveQuietNaNs := by
  intro n a b
  have hquiet := isQuietNaN_freeNaN n
  refine ⟨fun h => ?_, fun ha hb hs => ?_, fun ha hb hs => ?_, fun ha hb hz => ?_⟩
  · have hneg : isNaN a = true ∨ isNaN (fneg b) = true := h.imp id (isNaN_fneg b).trans
    rw [fsub, fadd_of_isNaN n h, fadd_of_isNaN n hneg, fmul_of_isNaN n h]
    exact ⟨hquiet, hquiet, hquiet⟩
  · have hneg : fsign a ≠ fsign (fneg b) := by
      rw [fsign_fneg, hs]
      exact (Bool.not_ne_self _).symm
    rwa [fsub, fadd_of_opposite_infinities n ha ((isInf_fneg b).trans hb) hneg]
  · rwa [fadd_of_opposite_infinities n ha hb hs]
  · obtain ⟨hab, hba⟩ := fmul_inf_zero n ha hb hz
    rw [hab, hba]
    exact ⟨hquiet, hquiet⟩

end

end Sys2Proof.Machine
end

section
/-! PID_TICK (43_pid.md rules R161 to R165). -/

namespace Sys2Proof.Machine

theorem exec_pidTick (a : Fin 7) (feedback target : F32) (s : State) : exec (.pidTick a feedback target) s =
    .next ((axisTick a feedback target s).withOut (.float (axisWork a feedback target s).out)) := rfl

/-- Settles O38: the ticked axis holds what rule R161 computes, and the tick is a write of that axis and of the draws. -/
theorem pidTickComputesItsTerms : Obligations.PidTickComputesItsTerms := by
  intro s a feedback target
  have hsame := axisTick_pid_same a feedback target s
  refine ⟨_, _, exec_pidTick a feedback target s, rfl, fun b hb => axisTick_pid_other hb feedback target s, ?_, rfl,
    fun _ _ _ => ?_⟩
  · rw [State.withOut_pid, hsame]
    rfl
  · rw [State.withOut_pid, hsame]
    exact ⟨rfl, rfl, rfl, rfl⟩

/-- A limit that is not negative lies above its negative. -/
theorem fle_fneg_self {m : F32} (hm : isFinite m = true) (h0 : fle 0x00000000 m = true) : fle (fneg m) m = true := by
  have hzero : (0 : Int) ≤ fvalue m := (fle_iff_fvalue (by decide) hm).mp h0
  rw [fle_iff_fvalue ((isFinite_fneg m).trans hm) hm, fvalue_fneg]
  omega

/-- A negative limit lies below its negative. -/
theorem flt_self_fneg {m : F32} (hm : isFinite m = true) (h0 : flt m 0x00000000 = true) : flt m (fneg m) = true := by
  have hzero : fvalue m < 0 := (flt_iff_fvalue hm (by decide)).mp h0
  rw [flt_iff_fvalue hm ((isFinite_fneg m).trans hm), fvalue_fneg]
  omega

/-- The limits of a record are finite where the record is. -/
theorem PidState.finite_limits {r : PidState} (h : r.finite = true) :
    isFinite r.ioutMax = true ∧ isFinite r.outMax = true := by
  simp only [PidState.finite, Bool.and_eq_true] at h
  simp [h]

/-- Settles O39: the output and the integral term are clamped between a limit and its negative. -/
theorem pidOutputIsBounded : Obligations.PidOutputIsBounded := by
  intro s a feedback target _ _ hfin w
  obtain ⟨hi, ho⟩ := PidState.finite_limits hfin
  have hout : w.out = fclamp w.u (fneg s.pid[a].outMax) s.pid[a].outMax := rfl
  have hit : w.it = fclamp (fmul (s.draws + 2) s.pid[a].ki w.acc) (fneg s.pid[a].ioutMax) s.pid[a].ioutMax := rfl
  refine ⟨_, exec_pidTick a feedback target s, rfl, ?_, fun h0 hu => ?_, fun habove => ?_, fun hu => ?_, fun hneg hu => ?_,
    fun h0 hp => ?_⟩
  · rw [State.withOut_pid, axisTick_pid_same]
    rfl
  · rw [hout]
    exact fclamp_between hu (fle_fneg_self ho h0)
  · rw [hout]
    exact if_pos habove
  · rw [hout]
    exact fclamp_nan hu
  · rw [hout, fclamp_of_crossed hu (flt_self_fneg ho hneg)]
    exact ite_eq_or_eq _ _ _
  · rw [hit]
    exact fclamp_between hp (fle_fneg_self hi h0)

end Sys2Proof.Machine
end

section
/-! The mixing matrix and its inverse (44_mixing_pipeline.md rules R182 to R187). -/

namespace Sys2Proof.Machine

/-! MIX_FWD (rules R183 and R184). -/

/-- A quotient of rule R183 fits in 32 bits where the sum fits in 34. -/
theorem toInt_ofInt_truncDiv_four {z : Int} (hz : -2 ^ 33 ≤ z ∧ z < 2 ^ 33) :
    (BitVec.ofInt 32 (truncDiv z 4)).toInt = z.tdiv 4 := by
  have hdiv : truncDiv z 4 = z.tdiv 4 := rfl
  have hfit : -2 ^ 31 ≤ z.tdiv 4 ∧ z.tdiv 4 < 2 ^ 31 := by
    rcases le_total 0 z with hpos | hneg
    · rw [Int.tdiv_eq_ediv_of_nonneg hpos]
      omega
    · rw [← neg_neg z, Int.neg_tdiv, Int.tdiv_eq_ediv_of_nonneg (Int.neg_nonneg_of_nonpos hneg)]
      omega
  rw [hdiv]
  exact BitVec.toInt_ofInt_eq_self (by decide) hfit.1 hfit.2

/-- Four `i32` sum to no more than 34 bits, whatever their signs in the sum. -/
theorem mixSums_fit (m : Vector I32 4) :
    (-2 ^ 33 ≤ mixSumX m ∧ mixSumX m < 2 ^ 33) ∧ (-2 ^ 33 ≤ mixSumY m ∧ mixSumY m < 2 ^ 33) ∧
      (-2 ^ 33 ≤ mixSumZ m ∧ mixSumZ m < 2 ^ 33) := by
  have hlo (v : I32) : -2 ^ 31 ≤ v.toInt := v.le_toInt
  have hhi (v : I32) : v.toInt < 2 ^ 31 := v.toInt_lt
  have := hlo m[0]; have := hlo m[1]; have := hlo m[2]; have := hlo m[3]
  have := hhi m[0]; have := hhi m[1]; have := hhi m[2]; have := hhi m[3]
  unfold mixSumX mixSumY mixSumZ
  omega

/-- Settles O41: the three sums stay within the bits whose quotient fits. -/
theorem mixForwardIsExact : Obligations.MixForwardIsExact := by
  intro s m
  obtain ⟨hx, hy, hz⟩ := mixSums_fit m
  exact ⟨_, exec_mixFwd m s, toInt_ofInt_truncDiv_four hx, toInt_ofInt_truncDiv_four hy, toInt_ofInt_truncDiv_four hz⟩

/-! MIX_INV (rule R186). -/

theorem exec_mixInv (tv : Vector F32 3) (s : State) : exec (.mixInv tv) s =
    .next ((s.takeDraws mixInverseDraws).withOut (.motors (mixInverse Config.kinematicL s.draws tv))) := rfl

/-- Settles O42: the row gives `mixInverse`, which is written with the grouping of the rule. -/
theorem mixInverseFormula : Obligations.MixInverseFormula := by
  intro s tv n t
  exact exec_mixInv tv s

/-! Integers in binary32: up to `2^24` in magnitude no operation rounds (rules R156, R157 and R180). -/

/-- The pattern is finite and its value is this integer. -/
def Represents (x : F32) (z : Int) : Prop :=
  isFinite x = true ∧ fvalue x = z * 2 ^ 149

theorem represents_intToFloat {i : I32} (h : i.toInt.natAbs ≤ 2 ^ 24) : Represents (intToFloat i) i.toInt := by
  have hfit := toInt_units_lt_overflow i
  exact ⟨isFinite_fpack ((roundUnits_spec _ 0).1 hfit).1, fvalue_intToFloat h⟩

/-- Such an integer is a binary32 value, so that the one rounding of an exact result leaves it as it is. -/
theorem represents_of_rounded {z : Int} {c : Nat} {r : F32} (hz : z.natAbs ≤ 2 ^ 24)
    (h : Rounded (z * 2 ^ 149 * 2 ^ c) c r) : Represents r z := by
  have hval : (BitVec.ofInt 32 z).toInt = z := BitVec.toInt_ofInt_eq_self (by decide) (by omega) (by omega)
  obtain ⟨hfin, hexact⟩ := represents_intToFloat (i := BitVec.ofInt 32 z) (by rwa [hval])
  rw [hval] at hexact
  have hpos := Nat.two_pow_pos c
  have hfit : (z * 2 ^ 149 * 2 ^ c).natAbs < overflowUnits c := by
    have hscale : (z * 2 ^ 149 * 2 ^ c).natAbs = z.natAbs * 2 ^ 149 * 2 ^ c := by
      simp [Int.natAbs_mul, Int.natAbs_pow]
    rw [hscale, overflowUnits, Nat.pow_add, ← Nat.mul_assoc]
    exact Nat.mul_lt_mul_of_pos_right (by omega) hpos
  obtain ⟨hr, hnear⟩ := h.1 hfit
  obtain ⟨hle, -⟩ := hnear _ hfin
  rw [hexact, sub_self, abs_zero, abs_nonpos_iff, sub_eq_zero] at hle
  exact ⟨hr, (mul_right_cancel₀ (pow_ne_zero c two_ne_zero) hle).symm⟩

section
variable {a b : F32} {x y : Int}

theorem represents_fadd (n : Nat) (ha : Represents a x) (hb : Represents b y) (h : (x + y).natAbs ≤ 2 ^ 24) :
    Represents (fadd n a b) (x + y) := by
  have hround := rounded_fadd n ha.1 hb.1
  rw [ha.2, hb.2, ← add_mul] at hround
  exact represents_of_rounded h (by rwa [pow_zero, mul_one])

theorem represents_fsub (n : Nat) (ha : Represents a x) (hb : Represents b y) (h : (x - y).natAbs ≤ 2 ^ 24) :
    Represents (fsub n a b) (x - y) := by
  have hround := rounded_fsub n ha.1 hb.1
  rw [ha.2, hb.2, ← sub_mul] at hround
  exact represents_of_rounded h (by rwa [pow_zero, mul_one])

theorem represents_fmul (n : Nat) (ha : Represents a x) (hb : Represents b y) (h : (x * y).natAbs ≤ 2 ^ 24) :
    Represents (fmul n a b) (x * y) := by
  have hround := rounded_fmul n ha.1 hb.1
  rw [ha.2, hb.2, mul_mul_mul_comm, ← mul_assoc] at hround
  exact represents_of_rounded h hround

/-- Rule R181 on an integer: there is no fraction to discard. -/
theorem toInt_floatToInt_of_represents (h : Represents a x) (hlo : -2 ^ 31 ≤ x) (hhi : x < 2 ^ 31) :
    (floatToInt a).toInt = x := by
  obtain ⟨hfin, hval⟩ := h
  have hrange : inI32Range a := ⟨hfin, by rw [hval]; omega, by rw [hval]; omega⟩
  rw [toInt_floatToInt hrange, hval, Int.mul_tdiv_cancel _ (by decide)]

end

/-! Forward after inverse (rule R187). -/

/-- The motor targets of integer body velocities are integers (rule R186). -/
theorem represents_mixInverse {tv : Vector F32 3} {x y z : Int} (n : Nat) (hx : Represents tv[0] x)
    (hy : Represents tv[1] y) (hz : Represents tv[2] z)
    (hbound : x.natAbs ≤ 2 ^ 21 ∧ y.natAbs ≤ 2 ^ 21 ∧ z.natAbs ≤ 2 ^ 21) :
    Represents (mixInverse 1 n tv)[0] (x - y - z) ∧ Represents (mixInverse 1 n tv)[1] (x + y + z) ∧
      Represents (mixInverse 1 n tv)[2] (x + y - z) ∧ Represents (mixInverse 1 n tv)[3] (x - y + z) := by
  have hone : Represents (intToFloat (BitVec.ofNat 32 1)) 1 := represents_intToFloat (i := 1) (by decide)
  have hturn : Represents (fmul n (intToFloat (BitVec.ofNat 32 1)) tv[2]) z := by
    have hmul := represents_fmul n hone hz (by omega)
    rwa [one_mul] at hmul
  exact ⟨represents_fsub _ (represents_fsub _ hx hy (by omega)) hturn (by omega),
    represents_fadd _ (represents_fadd _ hx hy (by omega)) hturn (by omega),
    represents_fsub _ (represents_fadd _ hx hy (by omega)) hturn (by omega),
    represents_fadd _ (represents_fsub _ hx hy (by omega)) hturn (by omega)⟩

/-- A sum of rule R183 that is four times a velocity gives the velocity back. -/
theorem ofInt_truncDiv_of_eq_four_mul {z : Int} {v : I32} (h : z = v.toInt * 4) : BitVec.ofInt 32 (truncDiv z 4) = v := by
  have hdiv : truncDiv z 4 = z.tdiv 4 := rfl
  rw [hdiv, h, Int.mul_tdiv_cancel _ (by decide), BitVec.ofInt_toInt]

/-- The motors' integers of an inverse mixing lead the forward mixing back. -/
theorem mixForward_eq {m : Vector I32 4} {v : Vector I32 3} (h0 : m[0].toInt = v[0].toInt - v[1].toInt - v[2].toInt)
    (h1 : m[1].toInt = v[0].toInt + v[1].toInt + v[2].toInt) (h2 : m[2].toInt = v[0].toInt + v[1].toInt - v[2].toInt)
    (h3 : m[3].toInt = v[0].toInt - v[1].toInt + v[2].toInt) : mixForward Config.kinematicL m = v := by
  have hx : mixSumX m = v[0].toInt * 4 := by rw [mixSumX]; omega
  have hy : mixSumY m = v[1].toInt * 4 := by rw [mixSumY]; omega
  have hz : mixSumZ m = v[2].toInt * 4 := by rw [mixSumZ]; omega
  rw [mixForward, Config.kinematicL, mul_one, ofInt_truncDiv_of_eq_four_mul hx, ofInt_truncDiv_of_eq_four_mul hy,
    ofInt_truncDiv_of_eq_four_mul hz, vector_three_eta]

/-- Settles O43: on integers the inverse mixing is exact, and each forward sum is four times its velocity. -/
theorem forwardAfterInverseIsIdentity : Obligations.ForwardAfterInverseIsIdentity := by
  intro s v hv
  have hx : v[0].toInt.natAbs ≤ 2 ^ 21 := hv 0
  have hy : v[1].toInt.natAbs ≤ 2 ^ 21 := hv 1
  have hz : v[2].toInt.natAbs ≤ 2 ^ 21 := hv 2
  obtain ⟨h0, h1, h2, h3⟩ := represents_mixInverse (tv := #v[intToFloat v[0], intToFloat v[1], intToFloat v[2]]) s.draws
    (represents_intToFloat (i := v[0]) (by omega)) (represents_intToFloat (i := v[1]) (by omega))
    (represents_intToFloat (i := v[2]) (by omega)) ⟨hx, hy, hz⟩
  have hexec := exec_mixInv #v[intToFloat v[0], intToFloat v[1], intToFloat v[2]] s
  rw [Config.kinematicL] at hexec
  generalize mixInverse 1 s.draws #v[intToFloat v[0], intToFloat v[1], intToFloat v[2]] = tm at hexec h0 h1 h2 h3
  have hback : mixForward Config.kinematicL
      #v[floatToInt tm[0], floatToInt tm[1], floatToInt tm[2], floatToInt tm[3]] = v :=
    mixForward_eq (toInt_floatToInt_of_represents h0 (by omega) (by omega))
      (toInt_floatToInt_of_represents h1 (by omega) (by omega))
      (toInt_floatToInt_of_represents h2 (by omega) (by omega))
      (toInt_floatToInt_of_represents h3 (by omega) (by omega))
  refine ⟨_, tm, hexec, rfl, ?_⟩
  rw [exec_mixFwd, hback]
  rfl

end Sys2Proof.Machine
end

section
/-! The control tick axis by axis, with gain sets that may land inside it (20_memory.md rule R57, 44_mixing_pipeline.md
rules R195 to R200). -/

namespace Sys2Proof.Machine

/-! What a landing makes of one record (rules R57 and R126). -/

/-- The record of an axis after the commit of a boundary, where one lands there. -/
def landOn (a : Fin 7) (g : Option GainSet) (r : PidState) : PidState :=
  g.elim r (axisGains a · r)

/-- The record of an axis after the commits of a row of boundaries. -/
def landAll (a : Fin 7) (gs : List (Option GainSet)) (r : PidState) : PidState :=
  gs.foldl (fun r g => landOn a g r) r

theorem landAll_cons (a : Fin 7) (g : Option GainSet) (gs : List (Option GainSet)) (r : PidState) :
    landAll a (g :: gs) r = landAll a gs (landOn a g r) := rfl

@[simp] theorem landAll_replicate_none (a : Fin 7) (n : Nat) (r : PidState) :
    landAll a (List.replicate n none) r = r := by
  induction n with
  | zero => rfl
  | succ n ih => rw [List.replicate_succ, landAll_cons]; exact ih

/-- One commit among boundaries without one. -/
theorem landAll_set (a : Fin 7) (g : GainSet) (n k : Nat) (r : PidState) :
    landAll a ((List.replicate n none).set k (some g)) r = if k < n then axisGains a g r else r := by
  induction n generalizing k with
  | zero => rfl
  | succ n ih =>
    rw [List.replicate_succ]
    cases k with
    | zero => exact landAll_replicate_none a n (axisGains a g r)
    | succ k =>
      rw [List.set_cons_succ, landAll_cons, if_congr Nat.succ_lt_succ_iff rfl rfl]
      exact ih k

@[simp] theorem landOn_lastOutput (a : Fin 7) (g : Option GainSet) (r : PidState) :
    (landOn a g r).lastOutput = r.lastOutput := by
  cases g with
  | none => rfl
  | some g => simp only [landOn, Option.elim, axisGains]; split_ifs <;> rfl

@[simp] theorem landAll_lastOutput (a : Fin 7) (gs : List (Option GainSet)) (r : PidState) :
    (landAll a gs r).lastOutput = r.lastOutput := by
  induction gs generalizing r with
  | nil => rfl
  | cons g gs ih => rw [landAll_cons, ih, landOn_lastOutput]

theorem landCommit_pid (g : Option GainSet) (s : State) (a : Fin 7) :
    (landCommit g s).pid[a] = landOn a g s.pid[a] := by
  cases g with
  | none => rfl
  | some g => exact gainsIntoFile_getElem g s.pid a

/-! A tick behind a boundary. -/

/-- The record of an axis after its tick, `n` being the first draw of the tick. -/
def PidState.ticked (r : PidState) (n : Nat) (feedback target : F32) : PidState :=
  r.afterTick (pidCompute n r feedback target)

section
variable (g : Option GainSet) (a b : Fin 7) (feedback target : F32) (s : State)

/-- A tick behind a boundary: every axis takes what lands, and one of them is ticked. -/
theorem landedTick_pid : (landedTick g a feedback target s).2.pid[b] =
    if b = a then (landOn b g s.pid[b]).ticked s.draws feedback target else landOn b g s.pid[b] := by
  rw [← landCommit_pid, ← landCommit_draws g]
  split_ifs with h
  · subst h
    exact axisTick_pid_same b feedback target (landCommit g s)
  · exact axisTick_pid_other h feedback target (landCommit g s)

/-- The output of a tick is the `last_output` it leaves. -/
theorem landedTick_fst : (landedTick g a feedback target s).1 = (landedTick g a feedback target s).2.pid[a].lastOutput := by
  rw [landedTick, axisTick_pid_same]
  rfl

end

/-! The axes after a control tick. -/

theorem Landing.toList_eq (l : Landing) : l.toList = [l[0], l[1], l[2], l[3], l[4], l[5], l[6], l[7]] := by
  obtain ⟨⟨ls⟩, hlen⟩ := l
  match ls, hlen with
  | [_, _, _, _, _, _, _, _], _ => rfl

/-- An axis takes the commits up to its boundary, is ticked once, and takes the commits behind. -/
def Landing.through (l : Landing) (a : Fin 7) (n : Nat) (feedback target : F32) (r : PidState) : PidState :=
  landAll a (l.toList.drop (a + 1)) ((landAll a (l.toList.take (a + 1)) r).ticked n feedback target)

section
variable (l : Landing) (tgt : Vector F32 3) (s : State)

theorem cascade_pid_outer (k : Fin 3) : (cascade l tgt s).pid[(⟨k, by omega⟩ : Fin 7)] =
    l.through ⟨k, by omega⟩ (s.draws + 8 * k) (intToFloat s.vel[k]) tgt[k] s.pid[(⟨k, by omega⟩ : Fin 7)] := by
  rw [Landing.through, Landing.toList_eq]
  simp only [cascade, landCommit_pid, State.withCmd_pid, innerLoop, landedTick_pid, distribute_pid, outerLoop,
    landedTick_draws]
  match k with
  | 0 | 1 | 2 => rfl

theorem cascade_pid_inner (j : Fin 4) : (cascade l tgt s).pid[(⟨3 + j, by omega⟩ : Fin 7)] =
    l.through ⟨3 + j, by omega⟩ (s.draws + 33 + 8 * j) (intToFloat s.fb[j])
      (distribute (outerLoop l tgt s).1 (outerLoop l tgt s).2).1[j] s.pid[(⟨3 + j, by omega⟩ : Fin 7)] := by
  rw [Landing.through, Landing.toList_eq]
  simp only [cascade, landCommit_pid, State.withCmd_pid, innerLoop, landedTick_pid, distribute_pid, outerLoop,
    landedTick_fb, landedTick_draws, distribute_fb, distribute_draws]
  match j with
  | 0 | 1 | 2 | 3 => rfl

/-- The outputs of the outer axes are what their ticks leave as `last_output` (rule R197). -/
theorem outerLoop_fst (k : Fin 3) :
    (outerLoop l tgt s).1[k] = (cascade l tgt s).pid[(⟨k, by omega⟩ : Fin 7)].lastOutput := by
  rw [cascade_pid_outer, Landing.through, landAll_lastOutput, Landing.toList_eq]
  simp only [outerLoop, landedTick_fst, landedTick_pid, landedTick_draws]
  match k with
  | 0 | 1 | 2 => rfl

/-- The motor targets of a control tick (rule R186). -/
theorem distribute_outerLoop : (distribute (outerLoop l tgt s).1 (outerLoop l tgt s).2).1 =
    mixInverse 1 (s.draws + 24) #v[(cascade l tgt s).pid[0].lastOutput, (cascade l tgt s).pid[1].lastOutput,
      (cascade l tgt s).pid[2].lastOutput] := by
  rw [distribute, outerLoop_draws, ← vector_three_eta (outerLoop l tgt s).1]
  rw [show (outerLoop l tgt s).1[0] = _ from outerLoop_fst l tgt s 0,
    show (outerLoop l tgt s).1[1] = _ from outerLoop_fst l tgt s 1,
    show (outerLoop l tgt s).1[2] = _ from outerLoop_fst l tgt s 2]
  rfl

/-- The commands are the inner axes' outputs as integers (rule R199). -/
theorem cascade_cmd (j : Fin 4) :
    (cascade l tgt s).cmd[j] = floatToInt (cascade l tgt s).pid[(⟨3 + j, by omega⟩ : Fin 7)].lastOutput := by
  rw [cascade_pid_inner, Landing.through, landAll_lastOutput, Landing.toList_eq]
  simp only [cascade, landCommit_cmd, State.withCmd_cmd, commandsOf, innerLoop, landedTick_fst, landedTick_pid,
    distribute_pid, outerLoop, landedTick_fb, landedTick_draws, distribute_fb, distribute_draws]
  match j with
  | 0 | 1 | 2 | 3 => rfl

end

/-- An axis belongs to the outer loop or to the inner loop (rules R197 and R198). -/
theorem axis_cases (a : Fin 7) : (∃ k : Fin 3, a = ⟨k, by omega⟩) ∨ ∃ j : Fin 4, a = ⟨3 + j, by omega⟩ := by
  by_cases h : (a : Nat) < 3
  · exact .inl ⟨⟨a, h⟩, rfl⟩
  · exact .inr ⟨⟨a - 3, by omega⟩, Fin.ext (by simp only; omega)⟩

/-- Every axis runs through the boundaries, whatever its loop feeds it with. -/
theorem cascade_pid (l : Landing) (tgt : Vector F32 3) (s : State) (a : Fin 7) :
    ∃ n feedback target, (cascade l tgt s).pid[a] = l.through a n feedback target s.pid[a] := by
  rcases axis_cases a with ⟨k, rfl⟩ | ⟨j, rfl⟩
  · exact ⟨_, _, _, cascade_pid_outer l tgt s k⟩
  · exact ⟨_, _, _, cascade_pid_inner l tgt s j⟩

/-! The two landings of the claims: none, and one commit at one boundary. -/

theorem noLanding_through (a : Fin 7) (n : Nat) (feedback target : F32) (r : PidState) :
    noLanding.through a n feedback target r = r.ticked n feedback target := by
  have hlist : noLanding.toList = List.replicate 8 none := rfl
  rw [Landing.through, hlist, List.drop_replicate, List.take_replicate, landAll_replicate_none, landAll_replicate_none]

/-- A commit at boundary `k` comes before the tick of the axes from `k` on, and behind the tick of the others. -/
theorem oneLanding_through (g : GainSet) (k : Fin 8) (a : Fin 7) (n : Nat) (feedback target : F32) (r : PidState) :
    Landing.through (noLanding.set k (some g)) a n feedback target r =
      if (k : Nat) ≤ a then (axisGains a g r).ticked n feedback target else axisGains a g (r.ticked n feedback target) := by
  have hlist : (noLanding.set k (some g)).toList = (List.replicate 8 none).set k (some g) := Vector.toList_set ..
  rw [Landing.through, hlist, List.drop_set, List.take_set, List.drop_replicate, List.take_replicate, landAll_set]
  by_cases h : (k : Nat) ≤ a
  · rw [if_pos h, if_pos (by omega), if_pos (by omega), landAll_replicate_none]
  · rw [if_neg h, if_neg (by omega), if_neg (by omega), landAll_set, if_pos (by omega)]

/-- A commit leaves nothing of the gains it replaces (rule R126). -/
theorem axisGains_gains (a : Fin 7) (g : GainSet) (r r' : PidState) : (axisGains a g r).gains = (axisGains a g r').gains := by
  unfold axisGains
  split_ifs <;> rfl

theorem axisGains_outer (k : Fin 3) (g : GainSet) (r : PidState) : axisGains ⟨k, by omega⟩ g r = positionGains g r :=
  if_pos k.isLt

theorem axisGains_inner (j : Fin 4) (g : GainSet) (r : PidState) : axisGains ⟨3 + j, by omega⟩ g r = velocityGains g r :=
  if_neg (Nat.not_lt.mpr (Nat.le_add_right 3 j))

theorem axisGains_lastOutput (a : Fin 7) (g : GainSet) (r : PidState) : (axisGains a g r).lastOutput = r.lastOutput :=
  landOn_lastOutput a (some g) r

/-! `running` under a landing (rule R31). -/

theorem landCommit_running (g : Option GainSet) (s : State) : (landCommit g s).running = (g.isSome || s.running) := by
  cases g <;> rfl

theorem cascade_running (l : Landing) (tgt : Vector F32 3) (s : State) :
    (cascade l tgt s).running = (l.toList.any Option.isSome || s.running) := by
  rw [Landing.toList_eq]
  simp only [cascade, innerLoop, outerLoop, landedTick, landCommit_running, State.withCmd_running, distribute_running,
    axisTick_running, List.any_cons, List.any_nil, Bool.or_false]
  ac_rfl

/-! The control tick with control authority (rules R195, R197 to R199). -/

section
variable {l : Landing} {fbIn : Vector I32 4} {tgt : Vector F32 3} {s : State}

theorem controlTickLanding_gated (h : s.initialized = true) : controlTickLanding l fbIn tgt s =
    (cascade l tgt (senseMotion fbIn s)).withOut (.command (cascade l tgt (senseMotion fbIn s)).cmd true) := by
  simp [controlTickLanding, controlGranted, senseMotion, h]

theorem controlTickLanding_fb (h : s.initialized = true) : (controlTickLanding l fbIn tgt s).fb = fbIn := by
  rw [controlTickLanding_gated h, State.withOut_fb, cascade_fb, senseMotion, State.withMotion_fb]

theorem controlTickLanding_vel (h : s.initialized = true) :
    (controlTickLanding l fbIn tgt s).vel = mixForward Config.kinematicL fbIn := by
  rw [controlTickLanding_gated h, State.withOut_vel, cascade_vel, senseMotion, State.withMotion_vel]

/-- The outer axes run on the body velocity just computed against the targets. -/
theorem controlTickLanding_pid_outer (h : s.initialized = true) (k : Fin 3) :
    (controlTickLanding l fbIn tgt s).pid[(⟨k, by omega⟩ : Fin 7)] =
      l.through ⟨k, by omega⟩ (s.draws + 8 * k) (intToFloat (controlTickLanding l fbIn tgt s).vel[k]) tgt[k]
        s.pid[(⟨k, by omega⟩ : Fin 7)] := by
  simp only [controlTickLanding_gated h, State.withOut_pid, State.withOut_vel, cascade_vel]
  exact cascade_pid_outer l tgt (senseMotion fbIn s) k

/-- The inner axes run on the motor feedback against the mixed outputs of the outer axes. -/
theorem controlTickLanding_pid_inner (h : s.initialized = true) (j : Fin 4) :
    (controlTickLanding l fbIn tgt s).pid[(⟨3 + j, by omega⟩ : Fin 7)] =
      l.through ⟨3 + j, by omega⟩ (s.draws + 33 + 8 * j) (intToFloat fbIn[j])
        (mixInverse 1 (s.draws + 24) #v[(controlTickLanding l fbIn tgt s).pid[0].lastOutput,
          (controlTickLanding l fbIn tgt s).pid[1].lastOutput, (controlTickLanding l fbIn tgt s).pid[2].lastOutput])[j]
        s.pid[(⟨3 + j, by omega⟩ : Fin 7)] := by
  simp only [controlTickLanding_gated h, State.withOut_pid]
  have hinner := cascade_pid_inner l tgt (senseMotion fbIn s) j
  rw [distribute_outerLoop] at hinner
  exact hinner

theorem controlTickLanding_cmd (h : s.initialized = true) (j : Fin 4) : (controlTickLanding l fbIn tgt s).cmd[j] =
    floatToInt (controlTickLanding l fbIn tgt s).pid[(⟨3 + j, by omega⟩ : Fin 7)].lastOutput := by
  simp only [controlTickLanding_gated h, State.withOut_pid, State.withOut_cmd]
  exact cascade_cmd l tgt (senseMotion fbIn s) j

end

/-! What a control tick writes beside them (rule R195). -/

/-- A state that another one differs from in the registers of a control tick, its output and the draws alone. -/
theorem State.eq_of_control_frame {s t : State} (hpose : t.pose = s.pose) (hori : t.ori = s.ori)
    (hrunning : t.running = s.running) (hinit : t.initialized = s.initialized) (hrx : t.rx = s.rx) (htx : t.tx = s.tx)
    (hlink : t.link = s.link) (hpending : t.pending = s.pending) :
    t = { s with fb := t.fb, vel := t.vel, cmd := t.cmd, pid := t.pid, out := t.out, draws := t.draws } := by
  rw [← hpose, ← hori, ← hrunning, ← hinit, ← hrx, ← htx, ← hlink, ← hpending]

theorem controlTick_frame (fbIn : Vector I32 4) (tgt : Vector F32 3) (s : State) :
    let t := controlTick fbIn tgt s
    t = { s with fb := t.fb, vel := t.vel, cmd := t.cmd, pid := t.pid, out := t.out, draws := t.draws } := by
  rcases Bool.eq_false_or_eq_true s.initialized with h | h
  · apply State.eq_of_control_frame <;> simp [controlTick_gated fbIn tgt s h, senseMotion]
  · rw [controlTick_ungated fbIn tgt s h]
    rfl

theorem controlTick_draws (fbIn : Vector I32 4) (tgt : Vector F32 3) {s : State} (h : s.initialized = true) :
    (controlTick fbIn tgt s).draws = s.draws + 65 := by
  rw [controlTick_gated fbIn tgt s h, State.withOut_draws, cascade_draws]
  rfl

/-- A control tick of this hardware keeps the gains of every axis. -/
theorem controlTick_gains (fbIn : Vector I32 4) (tgt : Vector F32 3) (s : State) (a : Fin 7) :
    (controlTick fbIn tgt s).pid[a].gains = s.pid[a].gains := by
  cases h : s.initialized with
  | false =>
    rw [controlTick_ungated fbIn tgt s h]
    rfl
  | true =>
    obtain ⟨n, feedback, target, hpid⟩ := cascade_pid noLanding tgt (senseMotion fbIn s) a
    rw [controlTick_gated fbIn tgt s h, State.withOut_pid, hpid, noLanding_through]
    rfl

/-- Settles O45: the pipeline without a landing, axis by axis, and its frame. -/
theorem gatedTickRunsThePipeline : Obligations.GatedTickRunsThePipeline := by
  intro s fbIn tgt h
  have hvel : (controlTick fbIn tgt s).vel = mixForward Config.kinematicL fbIn := controlTickLanding_vel h
  have hout : (controlTick fbIn tgt s).out = .command (controlTick fbIn tgt s).cmd true := by
    rw [controlTick_gated fbIn tgt s h, State.withOut_out, State.withOut_cmd]
  refine ⟨_, exec_ctrlTick fbIn tgt s, controlTickLanding_fb h, ?_, hout, controlTick_gains fbIn tgt s,
    ?_, fun _ => ⟨fun k => ?_, fun j _ => ?_, controlTickLanding_cmd h⟩⟩
  · rw [exec_mixFwd, hvel]
    rfl
  · rw [← controlTick_draws fbIn tgt h]
    exact controlTick_frame fbIn tgt s
  · exact (controlTickLanding_pid_outer h k).trans (noLanding_through ..)
  · exact (controlTickLanding_pid_inner h j).trans (noLanding_through ..)

/-- An output between -2000.0 and 2000.0 is a command between -2000 and 2000 (rules R164 and R181). -/
theorem toInt_floatToInt_fclamp_2000 {x : F32} (hx : isNaN x = false) :
    -2000 ≤ (floatToInt (fclamp x (fneg 0x44FA0000) 0x44FA0000)).toInt ∧
      (floatToInt (fclamp x (fneg 0x44FA0000) 0x44FA0000)).toInt ≤ 2000 := by
  have hlimit : fvalue 0x44FA0000 = 2000 * 2 ^ 149 := by decide +kernel
  obtain ⟨hfin, hlo, hhi⟩ := fclamp_symmetric hx (m := 0x44FA0000) (by decide) (by decide)
  rw [hlimit] at hlo hhi
  generalize fclamp x (fneg 0x44FA0000) 0x44FA0000 = y at hfin hlo hhi
  have hrange : inI32Range y := ⟨hfin, by omega, by omega⟩
  rw [toInt_floatToInt hrange, tdiv_fvalue]
  rw [fvalue_eq_withSign] at hlo hhi
  cases hsign : fsign y
  · rw [hsign, withSign_false] at hlo hhi
    rw [withSign_false]
    omega
  · rw [hsign, withSign_true] at hlo hhi
    rw [withSign_true]
    omega

/-- A clamp of a NaN is that NaN, so that a clamped number was a number. -/
theorem isNaN_of_fclamp {x lo hi : F32} (h : isNaN (fclamp x lo hi) = false) : isNaN x = false := by
  cases hx : isNaN x with
  | false => rfl
  | true => rw [fclamp_nan hx, hx] at h; cases h

/-- The output of a tick is clamped by the limit of its axis (rule R161). -/
theorem PidState.ticked_lastOutput (r : PidState) (n : Nat) (feedback target : F32) :
    ∃ u, (r.ticked n feedback target).lastOutput = fclamp u (fneg r.outMax) r.outMax :=
  ⟨_, rfl⟩

/-- Settles O46: the output of an inner axis is a clamp by its limit, and the command is that output as an integer. -/
theorem commandsStayWithinLimits : Obligations.CommandsStayWithinLimits := by
  intro s fbIn tgt h
  refine ⟨_, exec_ctrlTick fbIn tgt s, fun _ => ?_⟩
  intro tm j _ hlimit hnum
  have hcmd : (controlTick fbIn tgt s).cmd[j] =
      floatToInt (controlTick fbIn tgt s).pid[(⟨3 + j, by omega⟩ : Fin 7)].lastOutput := controlTickLanding_cmd h j
  have hpid : (controlTick fbIn tgt s).pid[(⟨3 + j, by omega⟩ : Fin 7)] =
      s.pid[(⟨3 + j, by omega⟩ : Fin 7)].ticked (s.draws + 33 + 8 * j) (intToFloat fbIn[j]) tm[j] :=
    (controlTickLanding_pid_inner h j).trans (noLanding_through ..)
  obtain ⟨u, hu⟩ := s.pid[(⟨3 + j, by omega⟩ : Fin 7)].ticked_lastOutput (s.draws + 33 + 8 * j) (intToFloat fbIn[j]) tm[j]
  rw [hlimit] at hu
  rw [hpid, hu] at hnum
  rw [hcmd, hpid, hu]
  exact toInt_floatToInt_fclamp_2000 (isNaN_of_fclamp hnum)

/-! One commit inside the tick (rule R57). -/

section
variable (g : GainSet) (k : Fin 8) (a : Fin 7) (n : Nat) (feedback target : F32) (r : PidState)

theorem oneLanding_through_gains :
    (Landing.through (noLanding.set k (some g)) a n feedback target r).gains = (axisGains a g r).gains := by
  rw [oneLanding_through]
  split_ifs
  · rfl
  · exact axisGains_gains a g _ r

/-- The tick runs on one record, that of before the commit or that of behind it. -/
theorem oneLanding_through_lastOutput :
    (Landing.through (noLanding.set k (some g)) a n feedback target r).lastOutput =
      (pidCompute n (if (k : Nat) ≤ a then axisGains a g r else r) feedback target).out := by
  rw [oneLanding_through]
  split_ifs
  · rfl
  · exact axisGains_lastOutput a g _

end

theorem oneLanding_any_isSome (g : GainSet) (k : Fin 8) : (noLanding.set k (some g)).toList.any Option.isSome = true := by
  match k with
  | 0 | 1 | 2 | 3 | 4 | 5 | 6 | 7 => rfl

/-- Settles O48: each axis is ticked on its old or on its new record, and holds the new gains in the end. -/
theorem landedCommitSplitsTheTickCleanly : Obligations.LandedCommitSplitsTheTickCleanly := by
  intro s fbIn tgt g k h
  refine ⟨_, ⟨_, trivial, rfl⟩, rfl, fun a => ?_, ?_, fun _ _ => ⟨fun a => ?_, fun j _ => ?_⟩⟩
  · obtain ⟨n, feedback, target, hpid⟩ := cascade_pid (noLanding.set k (some g)) tgt (senseMotion fbIn s) a
    rw [controlTickLanding_gated h, State.withOut_pid, hpid]
    exact oneLanding_through_gains ..
  · rw [controlTickLanding_gated h, State.withOut_running, cascade_running, oneLanding_any_isSome, Bool.true_or]
  · rw [controlTickLanding_pid_outer h a, oneLanding_through_lastOutput, axisGains_outer]
  · rw [controlTickLanding_pid_inner h j, oneLanding_through_lastOutput, axisGains_inner]

/-! What a control tick does not read (rules R20 and R196). -/

/-- The registers and draws of a control tick from one state, everything it does not read from another. -/
def State.beside (s u : State) : State :=
  { u with fb := s.fb, vel := s.vel, cmd := s.cmd, pid := s.pid, initialized := s.initialized, draws := s.draws }

theorem cascade_beside (tgt : Vector F32 3) (s u : State) :
    cascade noLanding tgt (s.beside u) = (cascade noLanding tgt s).beside u := rfl

/-- A control tick reads none of them and writes the output alone of them. -/
theorem controlTick_beside (fbIn : Vector I32 4) (tgt : Vector F32 3) (s u : State) :
    controlTick fbIn tgt (s.beside u) = ((controlTick fbIn tgt s).beside u).withOut (controlTick fbIn tgt s).out := by
  have hsense : senseMotion fbIn (s.beside u) = (senseMotion fbIn s).beside u := rfl
  cases h : s.initialized with
  | false =>
    rw [controlTick_ungated fbIn tgt s h, controlTick_ungated fbIn tgt (s.beside u) h]
    rfl
  | true =>
    rw [controlTick_gated fbIn tgt s h, controlTick_gated fbIn tgt (s.beside u) h, hsense, cascade_beside]
    rfl

/-- Settles O47: `running` stands among what a control tick does not read. -/
theorem runningPlaysNoPartInControl : Obligations.RunningPlaysNoPartInControl := by
  intro s fbIn tgt b
  refine ⟨_, exec_ctrlTick fbIn tgt s, ?_⟩
  have hbeside := controlTick_beside fbIn tgt s { s with running := b }
  have hframe := controlTick_frame fbIn tgt s
  have harg : s.beside { s with running := b } = { s with running := b } := rfl
  rw [harg] at hbeside
  rw [exec_ctrlTick, hbeside]
  generalize controlTick fbIn tgt s = t at hframe
  rw [hframe]
  rfl

end Sys2Proof.Machine
end

section
/-! The machine as a whole: what any operation can do to a state, and what every step keeps. -/

namespace Sys2Proof.Machine

/-! The effect of an operation. -/

/-- What an operation that completes has done to the state: one form for each group of rows that writes the same fields.
A form that every row could have names none: the row then writes no register. -/
inductive Effect (s : State) : Instr → State → Prop where
  /-- The output port alone. -/
  | report (i : Instr) (o : Output) : Effect s i (s.withOut o)
  /-- The transmit buffer with a telemetry frame in it. -/
  | transmit (i : Instr) (running : Bool) (slots : Vector Slot 13) (o : Output) :
      Effect s i ((s.withTx (writeTelemetry s.tx running slots)).withOut o)
  /-- The receive buffer with a dropped frame in it. -/
  | receive (b : List Byte) (o : Output) : b.length ≤ 55 → Effect s (.rxFrame b) ((s.handOver b).withOut o)
  /-- The receive buffer with an accepted frame in it, and the frame's commit. -/
  | receiveCommit (b : List Byte) (g : GainSet) (o : Output) : b.length ≤ 55 →
      Effect s (.rxFrame b) ((commitGains g (s.handOver b)).withOut o)
  | commit (g : GainSet) (o : Output) : Effect s (.commit g) ((commitGains g s).withOut o)
  | init (o : Output) : Effect s .init ((setInitialized s).withOut o)
  | reset (o : Output) : Effect s .reset (s.resetRegisters.withOut o)
  | ctrlTick (fbIn : Vector I32 4) (tgt : Vector F32 3) : Effect s (.ctrlTick fbIn tgt) (controlTick fbIn tgt s)
  | tlmTick (poseIn oriIn : Vector I32 3) (running : Bool) (slots : Vector Slot 13) (o : Output) :
      Effect s (.tlmTick poseIn oriIn)
        (((s.withSensors poseIn oriIn).withTx (writeTelemetry s.tx running slots)).withOut o)
  | pidTick (a : Fin 7) (feedback target : F32) (o : Output) :
      Effect s (.pidTick a feedback target) ((axisTick a feedback target s).withOut o)
  /-- Draws of the free NaN and the output port. -/
  | draw (i : Instr) (n : Nat) (o : Output) : Effect s i ((s.takeDraws n).withOut o)

theorem effect_of_reportField {r : Except DecodeError (Field × Nat)} {i : Instr} {s t : State}
    (h : reportField r s = .next t) : Effect s i t := by
  obtain ⟨o, rfl⟩ := reportField_next h
  exact .report i o

theorem effect_of_reportGains (r : Except DecodeError GainSet) (i : Instr) (s : State) : Effect s i (reportGains r s) := by
  obtain ⟨o, ho⟩ := reportGains_eq r s
  rw [ho]
  exact .report i o

/-- Every operation that completes has the effect of its group. -/
theorem effect_of_exec {i : Instr} {s t : State} (h : exec i s = .next t) : Effect s i t := by
  cases i with
  | fldI16 | fldU16 | fldI32 | fldU32 | fldF32 | fldU8 | fldDecode => exact effect_of_reportField h
  | cmdFrame g =>
    cases h
    exact effect_of_reportGains ..
  | cmdDecode len =>
    change execCmdDecode len s = .next t at h
    unfold execCmdDecode at h
    split_ifs at h
    cases h
    exact effect_of_reportGains ..
  | xor8 b lo hi =>
    change execXor8 b lo hi s = .next t at h
    unfold execXor8 at h
    split_ifs at h
    cases h
    exact .report _ _
  | rxFrame b =>
    change execRxFrame b s = .next t at h
    unfold execRxFrame at h
    split_ifs at h with hlen
    cases h
    rcases serveFrame_cases b.length (s.handOver b) with ⟨g, -, hs⟩ | ⟨e, -, hs⟩ <;> rw [hs]
    · exact .receiveCommit b g _ (not_lt.mp hlen)
    · exact .receive b _ (not_lt.mp hlen)
  | tlmFrame running slots => cases h; exact .transmit _ running slots _
  | tlmEncode => cases h; exact .transmit _ s.running (registerSlots s) _
  | tlmTick poseIn oriIn => cases h; exact .tlmTick poseIn oriIn s.running (registerSlots (s.withSensors poseIn oriIn)) _
  | init => cases h; exact .init _
  | reset => cases h; exact .reset _
  | commit g => cases h; exact .commit g _
  | ctrlTick fbIn tgt => cases h; exact .ctrlTick fbIn tgt
  | pidTick a feedback target => cases h; exact .pidTick a feedback target _
  | mixInv tv => cases h; exact .draw _ mixInverseDraws _
  | fldInvalid | opReserved | width | clamp | i2f | f2i | tdiv | mixFwd => cases h; exact .report _ _

/-! The records under each writer of the PID state file (rules R28 and R29). -/

theorem axisGains_dynamic (a : Fin 7) (g : GainSet) (r : PidState) :
    (axisGains a g r).integralAccum = r.integralAccum ∧ (axisGains a g r).lastError = r.lastError ∧
      (axisGains a g r).lastOutput = r.lastOutput := by
  unfold axisGains
  split_ifs <;> exact ⟨rfl, rfl, rfl⟩

theorem commitGains_dynamic (a : Fin 7) (g : GainSet) (s : State) :
    (commitGains g s).pid[a].integralAccum = s.pid[a].integralAccum ∧
      (commitGains g s).pid[a].lastError = s.pid[a].lastError ∧
      (commitGains g s).pid[a].lastOutput = s.pid[a].lastOutput := by
  rw [commitGains_pid, gainsIntoFile_getElem]
  exact axisGains_dynamic a g s.pid[a]

theorem axisTick_gains (a b : Fin 7) (feedback target : F32) (s : State) :
    (axisTick a feedback target s).pid[b].gains = s.pid[b].gains := by
  by_cases h : b = a
  · rw [h, axisTick_pid_same]
    rfl
  · rw [axisTick_pid_other h]

/-- Settles O51: the other rows write no gain, the ticks among them. -/
theorem gainsAreWrittenByCommitAlone : Obligations.GainsAreWrittenByCommitAlone := by
  intro i s t h hreset hcommit hrx a
  cases effect_of_exec h with
  | receive b => exact absurd rfl (hrx b)
  | receiveCommit b => exact absurd rfl (hrx b)
  | commit g => exact absurd rfl (hcommit g)
  | reset => exact absurd rfl hreset
  | ctrlTick fbIn tgt => exact controlTick_gains fbIn tgt s a
  | pidTick b feedback target => exact axisTick_gains b a feedback target s
  | report | transmit | init | tlmTick | draw => rfl

/-- Settles O52: a commit keeps the dynamic registers, and a tick of another axis the whole record. -/
theorem dynamicRegistersAreWrittenByTicksAlone : Obligations.DynamicRegistersAreWrittenByTicksAlone := by
  intro i s t b h hreset hctrl htick
  cases effect_of_exec h with
  | reset => exact absurd rfl hreset
  | ctrlTick fbIn tgt => exact absurd rfl (hctrl fbIn tgt)
  | receiveCommit _ g => exact commitGains_dynamic b g _
  | commit g => exact commitGains_dynamic b g s
  | pidTick a feedback target =>
    have hother : b ≠ a := fun hab => htick feedback target (hab ▸ rfl)
    rw [State.withOut_pid, axisTick_pid_other hother]
    exact ⟨rfl, rfl, rfl⟩
  | report | transmit | receive | init | tlmTick | draw => exact ⟨rfl, rfl, rfl⟩

/-! The fields that a control tick leaves alone. -/

section
variable (fbIn : Vector I32 4) (tgt : Vector F32 3) (s : State)

theorem controlTick_pose : (controlTick fbIn tgt s).pose = s.pose := by rw [controlTick_frame]
theorem controlTick_ori : (controlTick fbIn tgt s).ori = s.ori := by rw [controlTick_frame]
theorem controlTick_running : (controlTick fbIn tgt s).running = s.running := by rw [controlTick_frame]
theorem controlTick_initialized : (controlTick fbIn tgt s).initialized = s.initialized := by rw [controlTick_frame]
theorem controlTick_rx : (controlTick fbIn tgt s).rx = s.rx := by rw [controlTick_frame]
theorem controlTick_tx : (controlTick fbIn tgt s).tx = s.tx := by rw [controlTick_frame]
theorem controlTick_link : (controlTick fbIn tgt s).link = s.link := by rw [controlTick_frame]
theorem controlTick_pending : (controlTick fbIn tgt s).pending = s.pending := by rw [controlTick_frame]

end

/-- Settles O50: each group of registers is written by the forms of effect of one port operation. -/
theorem eachRegisterHasOneWriter : Obligations.EachRegisterHasOneWriter := by
  intro i s t hport hreset h
  have hdyn (a : Fin 7) (hctrl : ∀ f g, i ≠ .ctrlTick f g) := dynamicRegistersAreWrittenByTicksAlone i s t a h hreset hctrl
    fun f g hi => by subst hi; cases hport
  have hgains (a : Fin 7) (hrx : ∀ b, i ≠ .rxFrame b) := gainsAreWrittenByCommitAlone i s t h hreset
    (fun g hi => by subst hi; cases hport) hrx a
  refine ⟨fun hctrl => ?_, fun htlm => ?_, fun hrx => ⟨?_, fun a => hgains a hrx⟩, fun hinit => ?_⟩
  · have hmotion : t.fb = s.fb ∧ t.vel = s.vel ∧ t.cmd = s.cmd := by
      cases effect_of_exec h with
      | reset => exact absurd rfl hreset
      | ctrlTick fbIn tgt => exact absurd rfl (hctrl fbIn tgt)
      | _ => exact ⟨rfl, rfl, rfl⟩
    obtain ⟨hfb, hvel, hcmd⟩ := hmotion
    exact ⟨hfb, hvel, hcmd, fun a => hdyn a hctrl⟩
  · cases effect_of_exec h with
    | reset => exact absurd rfl hreset
    | tlmTick p o => exact absurd rfl (htlm p o)
    | ctrlTick fbIn tgt => exact ⟨controlTick_pose fbIn tgt s, controlTick_ori fbIn tgt s⟩
    | _ => exact ⟨rfl, rfl⟩
  · cases effect_of_exec h with
    | reset => exact absurd rfl hreset
    | receiveCommit b => exact absurd rfl (hrx b)
    | commit => cases hport
    | ctrlTick fbIn tgt => exact controlTick_running fbIn tgt s
    | _ => rfl
  · cases effect_of_exec h with
    | reset => exact absurd rfl hreset
    | init => exact absurd rfl hinit
    | ctrlTick fbIn tgt => exact controlTick_initialized fbIn tgt s
    | _ => rfl

/-! The flags (rules R31 and R32). -/

/-- Every operation but RESET sets a flag or keeps it. -/
theorem Effect.flags {i : Instr} {s t : State} (h : Effect s i t) (hreset : i ≠ .reset) :
    (s.running = true → t.running = true) ∧ (s.initialized = true → t.initialized = true) := by
  cases h with
  | reset => exact absurd rfl hreset
  | ctrlTick fbIn tgt => exact ⟨(controlTick_running fbIn tgt s).trans, (controlTick_initialized fbIn tgt s).trans⟩
  | receiveCommit | commit => exact ⟨fun _ => rfl, id⟩
  | init => exact ⟨id, fun _ => rfl⟩
  | report | transmit | receive | tlmTick | pidTick | draw => exact ⟨id, id⟩

/-- RESET has no encoding (rule R90). -/
theorem decode_ne_reset {sp : Space} {bs tail : List Byte} {i : Instr} (h : decode sp bs = .ok (i, tail)) : i ≠ .reset := by
  rintro rfl
  obtain ⟨⟨sp', pre, he, -⟩, -⟩ := decodedWordsAreEncodings sp bs tail .reset h
  cases he

/-- Settles O31: a RESET is served for the input `rst` alone, since no word decodes to it. -/
theorem flagsAreClearedByResetAlone : Obligations.FlagsAreClearedByResetAlone := by
  intro s t hstep hrst
  rcases step_next hstep with ⟨i, s', hfetch, hexec⟩ | hquiet
  · rcases fetch_run hfetch with ⟨rest, hp, -⟩ | ⟨sp, bs, rest, tail, -, hdec, rfl⟩ | ⟨rest, -, -, rfl, rfl⟩
    · exact absurd hp (hrst rest)
    · exact (effect_of_exec hexec).flags (decode_ne_reset hdec)
    · exact (effect_of_exec hexec).flags (by simp)
  · obtain ⟨q, l, o, rfl, -⟩ := fetch_quiet hquiet
    exact ⟨id, id⟩

/-! The invariant (rules R28, R50 and R61). -/

theorem groupsShareGains_gainsIntoFile (g : GainSet) (f : Vector PidState 7) : groupsShareGains (gainsIntoFile g f) :=
  ⟨rfl, rfl, rfl, rfl, rfl⟩

theorem groupsShareGains_reset : groupsShareGains State.reset.pid :=
  ⟨rfl, rfl, rfl, rfl, rfl⟩

/-- The groups look at the gains of a file alone. -/
theorem groupsShareGains_congr {f f' : Vector PidState 7} (h : ∀ a : Fin 7, f'[a].gains = f[a].gains)
    (hf : groupsShareGains f) : groupsShareGains f' := by
  obtain ⟨h1, h2, h4, h5, h6⟩ := hf
  exact ⟨(h 1).trans (h1.trans (h 0).symm), (h 2).trans (h2.trans (h 0).symm), (h 4).trans (h4.trans (h 3).symm),
    (h 5).trans (h5.trans (h 3).symm), (h 6).trans (h6.trans (h 3).symm)⟩

theorem Effect.inv {i : Instr} {s t : State} (h : Effect s i t) (hs : s.Inv) : t.Inv := by
  obtain ⟨hrx, htx, hfill, hover, hgains⟩ := hs
  have hframe (b : List Byte) (hb : b.length ≤ 55) : (s.handOver b).rx.wf Config.rxCap = true :=
    Memory.wf_writeBytes hrx (by rw [Nat.zero_add]; exact hb)
  cases h with
  | report | init | draw => exact ⟨hrx, htx, hfill, hover, hgains⟩
  | transmit | tlmTick => exact ⟨hrx, writeTelemetry_wf htx, hfill, hover, hgains⟩
  | receive b o hb => exact ⟨hframe b hb, htx, hfill, hover, hgains⟩
  | receiveCommit b g o hb => exact ⟨hframe b hb, htx, hfill, hover, groupsShareGains_gainsIntoFile g s.pid⟩
  | commit g => exact ⟨hrx, htx, hfill, hover, groupsShareGains_gainsIntoFile g s.pid⟩
  | reset => exact ⟨hrx, htx, hfill, hover, groupsShareGains_reset⟩
  | pidTick a feedback target =>
    exact ⟨hrx, htx, hfill, hover, groupsShareGains_congr (fun b => axisTick_gains a b feedback target s) hgains⟩
  | ctrlTick fbIn tgt =>
    have hfile := groupsShareGains_congr (fun a => controlTick_gains fbIn tgt s a) hgains
    rw [State.Inv, controlTick_rx, controlTick_tx, controlTick_link]
    exact ⟨hrx, htx, hfill, hover, hfile⟩

/-- A byte that arrives fills the link layer up to its capacity, and empties it where it overflows. -/
theorem Link.arrive_fits {l : Link} (b : Byte) (hfill : l.fill.length ≤ Config.rxCap) (hover : l.overflow = true → l.fill = []) :
    (l.arrive b).fill.length ≤ Config.rxCap ∧ ((l.arrive b).overflow = true → (l.arrive b).fill = []) := by
  unfold Link.arrive
  split_ifs with ho hroom
  · exact ⟨hfill, hover⟩
  · exact ⟨by simpa using hroom, fun h => absurd h ho⟩
  · exact ⟨Nat.zero_le _, fun _ => rfl⟩

/-- Settles O53: an operation keeps the invariant, and so does what a request without one does to the link layer. -/
theorem stepKeepsTheInvariant : Obligations.StepKeepsTheInvariant := by
  intro s t hs hstep
  obtain ⟨hrx, htx, hfill, hover, hgains⟩ := hs
  rcases step_next hstep with ⟨i, s', hfetch, hexec⟩ | hquiet
  · refine (effect_of_exec hexec).inv ?_
    rcases fetch_run hfetch with ⟨rest, -, -, rfl⟩ | ⟨sp, bs, rest, tail, -, -, rfl⟩ | ⟨rest, -, -, -, rfl⟩
    · exact ⟨hrx, htx, hfill, hover, hgains⟩
    · exact ⟨hrx, htx, hfill, hover, hgains⟩
    · exact ⟨hrx, htx, Nat.zero_le _, fun _ => rfl, hgains⟩
  · obtain ⟨q, l, o, rfl, rfl | rfl | ⟨b, rfl⟩⟩ := fetch_quiet hquiet
    · exact ⟨hrx, htx, hfill, hover, hgains⟩
    · exact ⟨hrx, htx, Nat.zero_le _, fun _ => rfl, hgains⟩
    · obtain ⟨hfill', hover'⟩ := Link.arrive_fits b hfill hover
      exact ⟨hrx, htx, hfill', hover', hgains⟩

/-- Settles O54: empty buffers, an empty link layer, and one record at every axis. -/
theorem resetMeetsTheInvariant : Obligations.ResetMeetsTheInvariant :=
  ⟨rfl, rfl, Nat.zero_le _, fun _ => rfl, groupsShareGains_reset⟩

end Sys2Proof.Machine
end

section
/-! The steps of the machine: requests served one by one, and the delivery of a frame (20_memory.md section 5). -/

namespace Sys2Proof.Machine

/-! INIT, RESET and the terms outside their domain. -/

/-- Settles O27: INIT writes one flag and the output port. -/
theorem initGrantsControl : Obligations.InitGrantsControl :=
  fun _ => ⟨rfl, rfl⟩

/-- Settles O28: RESET copies the registers of the reset state, and nothing else of it. -/
theorem resetWritesEveryRegister : Obligations.ResetWritesEveryRegister :=
  fun _ => ⟨_, rfl, ⟨rfl, rfl, rfl, rfl, rfl, rfl, rfl, rfl⟩, rfl, rfl, rfl, rfl, rfl, rfl⟩

/-- Settles O58: division by 0 is the free value, and neither of the two other rows looks at its operand. -/
theorem termsOutsideTheirDomainRun : Obligations.TermsOutsideTheirDomainRun :=
  fun _ _ _ _ => ⟨rfl, rfl, rfl⟩

/-! The step, request by request (rules R56, R219 and R220). -/

section
variable {s : State} {rest : List Request}

theorem step_idle (h : s.pending = []) : step s = .next s := by
  rw [step, fetch, h]

theorem step_rst (h : s.pending = .rst :: rest) : step s = exec .reset (s.withPending rest) := by
  rw [step, fetch, h]

theorem step_word_ok {sp : Space} {bs tail : List Byte} {i : Instr} (h : s.pending = .word sp bs :: rest)
    (hdec : decode sp bs = .ok (i, tail)) : step s = exec i (s.withPending rest) := by
  rw [step, fetch, h]
  simp only [fetchWord, hdec]

theorem step_word_error {sp : Space} {bs : List Byte} {why : Reject} (h : s.pending = .word sp bs :: rest)
    (hdec : decode sp bs = .error why) : step s = .next ((s.withPending rest).withOut (rejectOutput sp why)) := by
  rw [step, fetch, h]
  simp only [fetchWord, hdec]

theorem step_rxByte {b : Byte} (h : s.pending = .rxByte b :: rest) :
    step s = .next ((s.withPending rest).withLink (s.link.arrive b)) := by
  rw [step, fetch, h]

theorem step_rxComplete (h : s.pending = .rxComplete :: rest) :
    step s = if s.link.overflow then .next ((s.withPending rest).withLink .empty)
      else exec (.rxFrame s.link.fill) ((s.withPending rest).withLink .empty) := by
  rw [step, fetch, h]
  dsimp only [completeFrame]
  rw [State.withPending_link]
  split_ifs <;> rfl

end

theorem decode_command_error {bs : List Byte} {e : DecodeError} (h : decodeCommandFrame true bs = .error e) :
    decode .command bs = .error (.notCommandFrame e) := by
  rw [decode, decodeCommand, h]

/-- Settles O1: one law of the step for each kind of request, the words split by what the decoder answers. -/
theorem stepServesTheFirstRequest : Obligations.StepServesTheFirstRequest := by
  intro s rest
  refine ⟨step_idle, step_rst, fun sp bs tail i => step_word_ok, fun bs e h hdec => ?_, fun o lim bs why => step_word_error,
    fun sp bs why hsp h hdec => ?_, fun b => step_rxByte, fun h hfit => ?_, fun h hover => ?_⟩
  · exact step_word_error h (decode_command_error hdec)
  · rcases hsp with rfl | rfl <;> exact step_word_error h hdec
  · rw [step_rxComplete h, hfit]
    rfl
  · rw [step_rxComplete h, hover]
    rfl

/-! A whole delivery (rules R37, R60 and R61). -/

theorem run_succ_of_next {M : Host.Core} {s t : M.State} (h : M.step s = .next t) (k : Nat) : M.run (k + 1) s = M.run k t := by
  rw [Host.Core.run, h]

theorem run_one (M : Host.Core) (s : M.State) : M.run 1 s = M.step s := by
  rw [Host.Core.run]
  cases M.step s <;> rfl

/-- The bytes of a delivery reach the link layer one step at a time, and change nothing else. -/
theorem run_rxBytes (bs : List Byte) (rest : List Request) (k : Nat) {s : State}
    (h : s.pending = bs.map .rxByte ++ rest) :
    core.run (bs.length + k) s = core.run k ((s.withPending rest).withLink (bs.foldl Link.arrive s.link)) := by
  induction bs generalizing s with
  | nil =>
    obtain rfl : s.pending = rest := h
    rw [List.length_nil, Nat.zero_add]
    rfl
  | cons b bs ih =>
    have hlen : (b :: bs).length + k = bs.length + k + 1 := by
      rw [List.length_cons]
      omega
    calc core.run ((b :: bs).length + k) s
      _ = core.run (bs.length + k + 1) s := by rw [hlen]
      _ = core.run (bs.length + k) ((s.withPending (bs.map .rxByte ++ rest)).withLink (s.link.arrive b)) :=
        run_succ_of_next (M := core) (step_rxByte h) _
      _ = _ := ih rfl

theorem foldl_arrive_overflow (bs fill : List Byte) : bs.foldl Link.arrive ⟨fill, true⟩ = ⟨fill, true⟩ := by
  induction bs with
  | nil => rfl
  | cons b bs ih => exact ih

theorem arrive_of_room {fill : List Byte} (h : fill.length < Config.rxCap) (b : Byte) :
    Link.arrive ⟨fill, false⟩ b = ⟨fill ++ [b], false⟩ := by
  simp [Link.arrive, h]

theorem arrive_of_full {fill : List Byte} (h : Config.rxCap ≤ fill.length) (b : Byte) :
    Link.arrive ⟨fill, false⟩ b = ⟨[], true⟩ := by
  simp [Link.arrive, h]

/-- Bytes within the capacity join the fill; the first byte above it discards the frame, and the rest of it after. -/
theorem foldl_arrive (bs : List Byte) {fill : List Byte} (hfill : fill.length ≤ Config.rxCap) :
    bs.foldl Link.arrive ⟨fill, false⟩ =
      if fill.length + bs.length ≤ Config.rxCap then ⟨fill ++ bs, false⟩ else ⟨[], true⟩ := by
  induction bs generalizing fill with
  | nil => simp [hfill]
  | cons b bs ih =>
    rw [List.foldl_cons, List.length_cons]
    rcases Nat.lt_or_ge fill.length Config.rxCap with hroom | hfull
    · have hlen : (fill ++ [b]).length = fill.length + 1 := List.length_append
      rw [arrive_of_room hroom, ih (by omega), hlen, List.append_assoc, List.singleton_append, Nat.add_right_comm,
        Nat.add_assoc fill.length]
    · rw [arrive_of_full hfull, foldl_arrive_overflow, if_neg (by omega)]

/-- Settles O55: the last step finds the whole frame in the link layer, or the mark of an overflowed one. -/
theorem deliveryDecodesOrDiscards : Obligations.DeliveryDecodesOrDiscards := by
  intro s bs rest hlink hpending
  have hrun := run_rxBytes bs (.rxComplete :: rest) 1 hpending
  have hfill := foldl_arrive bs (fill := []) (Nat.zero_le _)
  have hempty : (s.withPending rest).withLink .empty = s.withPending rest := congrArg (s.withPending rest).withLink hlink.symm
  rw [← State.withPending, ← hempty]
  rw [hlink] at hrun
  replace hrun := hrun.trans ((run_one core _).trans (step_rxComplete rfl))
  rw [List.length_nil, Nat.zero_add, List.nil_append, show Config.rxCap = 55 from rfl] at hfill
  refine ⟨fun hfit => ?_, fun hlong => ?_⟩
  · rw [if_pos hfit] at hfill
    rw [hrun, hfill]
    rfl
  · rw [if_neg (not_le.mpr hlong)] at hfill
    rw [hrun, hfill]
    rfl

end Sys2Proof.Machine
end

section
/-! Where the machine stops, and that it is ready again everywhere else (10_state.md section 7, 20_memory.md section 5,
70_reset_and_hazards.md section 4). -/

namespace Sys2Proof.Machine

/-- A value below its limit that lies outside the receive buffer (log entry 17). -/
theorem reportField_boundField_fault {o w lim : Nat} (hlim : o + w ≤ lim) (hout : Config.rxCap < o + w) (f : Field)
    (s : State) : reportField (boundField o w lim f) s = .fault (.bufferOffset .rx (o + w - 1)) := by
  rw [boundField, if_neg (not_lt.mpr hlim)]
  exact if_pos hout

/-- The two ends of a field row, told apart by where its value lies. -/
theorem reportField_boundField_ends (o lim : Nat) (ty : FieldType) (f : Field) (s : State) :
    (fieldInside o lim ty = true ∧ ∃ t, reportField (boundField o (widthOf ty) lim f) s = .next t) ∨
      (fieldInside o lim ty = false ∧ ∃ r, reportField (boundField o (widthOf ty) lim f) s = .fault r) := by
  rcases boundField_cases o (widthOf ty) lim f with ⟨hbound, he⟩ | ⟨hbound, he⟩
  · exact .inl ⟨by simp [fieldInside, hbound], _, congrArg (reportField · s) he⟩
  · rcases Nat.lt_or_ge Config.rxCap (o + widthOf ty) with hout | hin
    · exact .inr ⟨by simp [fieldInside, hbound, hout], _, reportField_boundField_fault hbound hout f s⟩
    · rw [he]
      exact .inl ⟨by simp [fieldInside, hin], _, if_neg (not_lt.mpr hin)⟩

/-- The three ends of an operation: a next state exactly where it stays inside the buffers, else a fault, or for a frame
longer than the buffer a refusal. -/
theorem exec_ends (i : Instr) (s : State) :
    (staysInside i = true ∧ ∃ t, exec i s = .next t) ∨ (staysInside i = false ∧ ∃ r, exec i s = .fault r) ∨
      ∃ b, i = .rxFrame b ∧ staysInside i = false ∧ exec i s = .refused (.overlongFrame b.length) := by
  have hfield (o lim : Nat) (ty : FieldType) (f : Field) := reportField_boundField_ends o lim ty f s
  cases i with
  | fldI16 o lim r => exact (hfield o lim .int16 (fieldI16 r)).imp_right .inl
  | fldU16 o lim r => exact (hfield o lim .uint16 (fieldU16 r)).imp_right .inl
  | fldI32 o lim r => exact (hfield o lim .int32 (fieldI32 r)).imp_right .inl
  | fldU32 o lim r => exact (hfield o lim .uint32 (fieldU32 r)).imp_right .inl
  | fldF32 o lim r => exact (hfield o lim .float32 (fieldF32 r)).imp_right .inl
  | fldU8 o lim r => exact (hfield o lim .uint8 (fieldU8 r)).imp_right .inl
  | fldDecode o tag lim =>
    cases htag : fieldTypeOf tag with
    | none =>
      have hdec : decodeFieldAt (s.buffer .rx) o tag lim = .error .unknownFieldType := by rw [decodeFieldAt, htag]
      exact .inl ⟨by rw [staysInside, htag]; rfl, _, congrArg (reportField · s) hdec⟩
    | some ty =>
      rw [exec_fldDecode_of_tag htag fun _ => rfl, staysInside, htag]
      exact (hfield o lim ty _).imp_right .inl
  | xor8 b lo hi =>
    by_cases h : lo < hi ∧ b.capacity < hi
    · exact .inr (.inl ⟨by simp [staysInside, h], _, if_pos h⟩)
    · exact .inl ⟨by simp only [staysInside, Bool.or_eq_true, decide_eq_true_eq]; omega, _, if_neg h⟩
  | cmdDecode len =>
    by_cases h : Config.rxCap < len
    · exact .inr (.inl ⟨by simp [staysInside, h], _, if_pos h⟩)
    · exact .inl ⟨by simpa [staysInside] using h, _, if_neg h⟩
  | rxFrame b =>
    by_cases h : Config.rxCap < b.length
    · exact .inr (.inr ⟨b, rfl, by simp [staysInside, h], if_pos h⟩)
    · exact .inl ⟨by simpa [staysInside] using h, _, if_neg h⟩
  | _ => exact .inl ⟨rfl, _, rfl⟩

theorem staysInside_iff_completes (i : Instr) (s : State) : staysInside i = true ↔ ∃ t, exec i s = .next t := by
  rcases exec_ends i s with ⟨hin, ht⟩ | ⟨hout, r, hr⟩ | ⟨b, -, hout, hr⟩
  · exact iff_of_true hin ht
  · exact iff_of_false (by simp [hout]) (by simp [hr])
  · exact iff_of_false (by simp [hout]) (by simp [hr])

theorem rxFrame_of_exec_refused {i : Instr} {s : State} {r : Refusal} (h : exec i s = .refused r) : ∃ b, i = .rxFrame b := by
  rcases exec_ends i s with ⟨-, t, ht⟩ | ⟨-, f, hf⟩ | ⟨b, hi, -⟩
  · cases ht.symm.trans h
  · cases hf.symm.trans h
  · exact ⟨b, hi⟩

/-- Settles O57: the field rows stop through one lemma, and that nothing else stops is `exec_ends`. -/
theorem stopsOutsideTheRules : Obligations.StopsOutsideTheRules := by
  intro s b lo hi frame
  refine ⟨fun hlo hhi => if_pos ⟨hlo, hhi⟩, fun h => if_pos h, fun h => if_pos h, fun o lim tag ty htag hlim hout => ?_,
    fun o lim r hlim hout => ⟨?_, ?_⟩, fun o lim r hlim hout => ⟨?_, ?_, ?_⟩, fun o lim r hlim hout => ?_,
    fun i hi r h => ?_, fun i => staysInside_iff_completes i s⟩
  · rw [exec_fldDecode_of_tag htag fun _ => rfl]
    exact reportField_boundField_fault hlim hout _ s
  · exact reportField_boundField_fault hlim hout (fieldI16 r) s
  · exact reportField_boundField_fault hlim hout (fieldU16 r) s
  · exact reportField_boundField_fault hlim hout (fieldI32 r) s
  · exact reportField_boundField_fault hlim hout (fieldU32 r) s
  · exact reportField_boundField_fault hlim hout (fieldF32 r) s
  · exact reportField_boundField_fault hlim hout (fieldU8 r) s
  · obtain ⟨f, hf⟩ := rxFrame_of_exec_refused h
    exact hi f hf

/-! Completion. -/

theorem fieldInside_of_placed {o lim : Nat} (h : fieldPlaced o lim = true) (ty : FieldType) : fieldInside o lim ty = true := by
  simp only [fieldPlaced, fieldInside, Bool.and_eq_true, Bool.or_eq_true, decide_eq_true_eq] at h ⊢
  omega

theorem staysInside_of_wellFormed {i : Instr} (h : i.wellFormed = true) : staysInside i = true := by
  cases i with
  | fldI16 | fldU16 | fldI32 | fldU32 | fldF32 | fldU8 => exact fieldInside_of_placed h _
  | fldDecode o tag lim =>
    rw [staysInside]
    cases fieldTypeOf tag with
    | none => rfl
    | some ty => exact fieldInside_of_placed h ty
  | xor8 b lo hi =>
    simp only [Instr.wellFormed, staysInside, Bool.and_eq_true, Bool.or_eq_true, decide_eq_true_eq] at h ⊢
    exact .inr h.2
  | cmdDecode | rxFrame => exact h
  | _ => rfl

theorem Effect.link_pending {i : Instr} {s t : State} (h : Effect s i t) : t.link = s.link ∧ t.pending = s.pending := by
  cases h with
  | ctrlTick fbIn tgt => exact ⟨controlTick_link fbIn tgt s, controlTick_pending fbIn tgt s⟩
  | _ => exact ⟨rfl, rfl⟩

/-- Settles O56: a well-formed operation stays inside the buffers, and no effect reaches the two fields. -/
theorem everyWellFormedOperationCompletes : Obligations.EveryWellFormedOperationCompletes := by
  intro i s hwf
  obtain ⟨t, ht⟩ := (staysInside_iff_completes i s).mp (staysInside_of_wellFormed hwf)
  exact ⟨t, ht, (effect_of_exec ht).link_pending⟩

/-! What the registers determine (rule R39). -/

/-- The registers and draws of `s` with the buffers, link layer, waiting requests and output of `u`. -/
def State.registersOn (s u : State) : State :=
  { s with rx := u.rx, tx := u.tx, link := u.link, pending := u.pending, out := u.out }

theorem State.eq_registersOn_of_sameRegisters {s t : State} (h : s.sameRegisters t) (hdraws : s.draws = t.draws) :
    t = s.registersOn t := by
  obtain ⟨hfb, hvel, hpose, hori, hcmd, hpid, hrunning, hinit⟩ := h
  rw [State.registersOn, hfb, hvel, hpose, hori, hcmd, hpid, hrunning, hinit, hdraws]

theorem State.sameRegisters_refl (s : State) : s.sameRegisters s :=
  ⟨rfl, rfl, rfl, rfl, rfl, rfl, rfl, rfl⟩

/-- Settles O49: the second state is the first one's registers on other fields, and no port operation takes a register or
an output from those. -/
theorem onlyRegistersSurviveOperations : Obligations.OnlyRegistersSurviveOperations := by
  intro i s t hport hwf hrx htx hrx' htx' hsame hdraws
  rw [State.eq_registersOn_of_sameRegisters hsame hdraws]
  cases i with
  | init | opReserved | reset => exact ⟨_, _, rfl, rfl, State.sameRegisters_refl _, rfl, rfl⟩
  | rxFrame b =>
    have hlen : b.length ≤ 55 := of_decide_eq_true hwf
    rcases exec_rxFrame_cases hrx hlen with ⟨hacc, hs⟩ | ⟨hrej, e, he, hs⟩ <;>
      rcases exec_rxFrame_cases (s := s.registersOn t) hrx' hlen with ⟨hacc', ht⟩ | ⟨hrej', e', he', ht⟩
    · exact ⟨_, _, hs, ht, State.sameRegisters_refl _, rfl, rfl⟩
    · exact absurd hacc hrej'
    · exact absurd hacc' hrej
    · cases he.symm.trans he'
      exact ⟨_, _, hs, ht, State.sameRegisters_refl _, rfl, rfl⟩
  | ctrlTick fbIn tgt =>
    have ht := exec_ctrlTick fbIn tgt (s.beside (s.registersOn t))
    rw [controlTick_beside] at ht
    exact ⟨_, _, exec_ctrlTick fbIn tgt s, ht, ⟨rfl, rfl, controlTick_pose fbIn tgt s, controlTick_ori fbIn tgt s, rfl, rfl,
      controlTick_running fbIn tgt s, rfl⟩, rfl, rfl⟩
  | tlmTick poseIn oriIn =>
    obtain ⟨m, -, hs⟩ := exec_tlmTick_sent htx poseIn oriIn
    obtain ⟨m', -, ht⟩ := exec_tlmTick_sent (s := s.registersOn t) htx' poseIn oriIn
    exact ⟨_, _, hs, ht, State.sameRegisters_refl _, rfl, rfl⟩
  | _ => cases hport

end Sys2Proof.Machine
end
